-- ==== Sys2Proof/Word.lean ====
section
/-! DEFINITION. The machine's words and the bit-field types of its encoding (00_scope.md section 5, 30_encoding.md R70). -/

namespace Sys2Proof

/-- A register, an address, an instruction word: 32 bits (00_scope.md R5). -/
abbrev Word := BitVec 32

/-- The unit an address names (20_memory.md R40). -/
abbrev Byte := BitVec 8

/-- A raw immediate: 16 bits (30_encoding.md R70). -/
abbrev Half := BitVec 16

/-- A register index, or a shift amount: 5 bits (30_encoding.md R70). -/
abbrev Five := BitVec 5

/-- An opcode or a funct field: 6 bits (30_encoding.md R70). -/
abbrev Six := BitVec 6

end Sys2Proof
end

