-- ==== Sys2Proof/Config.lean ====
section
/-! DEFINITION. What a platform fixes (00_scope.md R5: `REGIONS`, `TEXT_BASE`), as data that a state carries,
and the one source of free values. The platform of `State.reset` stands in Machine/Platform.lean. -/

namespace Sys2Proof

/-- One memory region: the inclusive range of the addresses `first` to `last`, which the spec calls `begin` and
`end` (20_memory.md R41). Its bytes stand in the memory of the state, under their addresses. -/
structure Region where
  first : Word
  last  : Word
  deriving DecidableEq, Repr

/-- The open parameters `REGIONS` (an ordered list) and `TEXT_BASE` (00_scope.md R5, 92_eei_decisions.md D1). -/
structure Platform where
  regions  : List Region
  textBase : Word
  deriving DecidableEq, Repr

/-- FREE VALUE. The words the spec leaves open (HI and LO after `0x80000000 / 0xFFFFFFFF`, 93_implementation_defined.md
U2, 92_eei_decisions.md D23), drawn by a counter of the state, one word per draw. It has no body: nothing can be
proved of any of these words. Assumption log 3. -/
opaque Config.freeWord : Nat → Word

end Sys2Proof
end

