-- ==== Sys2Proof/Syntax.lean ====
section
/-! DEFINITION. The 44 instructions, one constructor per row of spec/opcode_table.json. -/

namespace Sys2Proof

/-- The instructions of 30_encoding.md R74. A constructor carries EVERY field of its word but the selecting ones
(opcode, funct under opcode 0, rt under opcode 1), those the instruction ignores too: no field is checked or required
to be zero (R71), and the latches carry all of them (40_pipeline.md R94). So a word and its instruction determine each
other (assumption log 11). Fields stand in the word's order: rs, rt, rd, sa (shamt); rs, rt, imm; target. -/
inductive Instr where
  /-- R130 -/
  | sll (rs rt rd sa : Five)
  /-- R131 -/
  | srl (rs rt rd sa : Five)
  /-- R132 -/
  | sra (rs rt rd sa : Five)
  /-- R177 -/
  | jr (rs rt rd sa : Five)
  /-- R178 -/
  | jalr (rs rt rd sa : Five)
  /-- R190 -/
  | syscall (code : BitVec 20)
  /-- R135 -/
  | mfhi (rs rt rd sa : Five)
  /-- R136 -/
  | mthi (rs rt rd sa : Five)
  /-- R137 -/
  | mflo (rs rt rd sa : Five)
  /-- R138 -/
  | mtlo (rs rt rd sa : Five)
  /-- R139 -/
  | mult (rs rt rd sa : Five)
  /-- R140 -/
  | multu (rs rt rd sa : Five)
  /-- R141 -/
  | div (rs rt rd sa : Five)
  /-- R142 -/
  | divu (rs rt rd sa : Five)
  /-- R145 -/
  | add (rs rt rd sa : Five)
  /-- R146 -/
  | addu (rs rt rd sa : Five)
  /-- R147 -/
  | sub (rs rt rd sa : Five)
  /-- R148 -/
  | subu (rs rt rd sa : Five)
  /-- R149 -/
  | and (rs rt rd sa : Five)
  /-- R150 -/
  | or (rs rt rd sa : Five)
  /-- R151 -/
  | xor (rs rt rd sa : Five)
  /-- R152 -/
  | nor (rs rt rd sa : Five)
  /-- R153 -/
  | slt (rs rt rd sa : Five)
  /-- R183 -/
  | bltz (rs : Five) (imm : Half)
  /-- R184 -/
  | bgez (rs : Five) (imm : Half)
  /-- R175 -/
  | j (target : BitVec 26)
  /-- R176 -/
  | jal (target : BitVec 26)
  /-- R179 -/
  | beq (rs rt : Five) (imm : Half)
  /-- R180 -/
  | bne (rs rt : Five) (imm : Half)
  /-- R181 -/
  | blez (rs rt : Five) (imm : Half)
  /-- R182 -/
  | bgtz (rs rt : Five) (imm : Half)
  /-- R155 -/
  | addi (rs rt : Five) (imm : Half)
  /-- R156 -/
  | addiu (rs rt : Five) (imm : Half)
  /-- R157 -/
  | slti (rs rt : Five) (imm : Half)
  /-- R158 -/
  | andi (rs rt : Five) (imm : Half)
  /-- R159 -/
  | ori (rs rt : Five) (imm : Half)
  /-- R160 -/
  | xori (rs rt : Five) (imm : Half)
  /-- R161 -/
  | lui (rs rt : Five) (imm : Half)
  /-- R165 -/
  | lb (rs rt : Five) (imm : Half)
  /-- R166 -/
  | lh (rs rt : Five) (imm : Half)
  /-- R167 -/
  | lw (rs rt : Five) (imm : Half)
  /-- R168 -/
  | sb (rs rt : Five) (imm : Half)
  /-- R169 -/
  | sh (rs rt : Five) (imm : Half)
  /-- R170 -/
  | sw (rs rt : Five) (imm : Half)
  deriving DecidableEq, Repr

end Sys2Proof
end

