-- ==== Sys2Proof/WellFormed.lean ====
section
/-! DEFINITION. What the types leave to a check: the assembler's form of an instruction, and a platform's shape.
EVERY term of `Instr` is well-formed for the hardware: "No field is checked against a legal range and no field is
required to be zero" (30_encoding.md R71), and the widths are in the types. -/

namespace Sys2Proof

/-- The form the assembly syntax of 30_encoding.md R78 writes: the fields a line of assembly does not name are zero.
The hardware runs the other forms just the same (92_eei_decisions.md D27); no other definition of the model
looks at this. -/
def Instr.canonical : Instr → Bool
  | .sll rs _ _ _ => rs == 0
  | .srl rs _ _ _ => rs == 0
  | .sra rs _ _ _ => rs == 0
  | .jr _ rt rd sa => rt == 0 && rd == 0 && sa == 0
  | .jalr _ rt _ sa => rt == 0 && sa == 0
  | .syscall code => code == 0
  | .mfhi rs rt _ sa => rs == 0 && rt == 0 && sa == 0
  | .mthi _ rt rd sa => rt == 0 && rd == 0 && sa == 0
  | .mflo rs rt _ sa => rs == 0 && rt == 0 && sa == 0
  | .mtlo _ rt rd sa => rt == 0 && rd == 0 && sa == 0
  | .mult _ _ rd sa => rd == 0 && sa == 0
  | .multu _ _ rd sa => rd == 0 && sa == 0
  | .div _ _ rd sa => rd == 0 && sa == 0
  | .divu _ _ rd sa => rd == 0 && sa == 0
  | .add _ _ _ sa => sa == 0
  | .addu _ _ _ sa => sa == 0
  | .sub _ _ _ sa => sa == 0
  | .subu _ _ _ sa => sa == 0
  | .and _ _ _ sa => sa == 0
  | .or _ _ _ sa => sa == 0
  | .xor _ _ _ sa => sa == 0
  | .nor _ _ _ sa => sa == 0
  | .slt _ _ _ sa => sa == 0
  | .bltz _ _ => true
  | .bgez _ _ => true
  | .j _ => true
  | .jal _ => true
  | .beq _ _ _ => true
  | .bne _ _ _ => true
  | .blez _ rt _ => rt == 0
  | .bgtz _ rt _ => rt == 0
  | .addi _ _ _ => true
  | .addiu _ _ _ => true
  | .slti _ _ _ => true
  | .andi _ _ _ => true
  | .ori _ _ _ => true
  | .xori _ _ _ => true
  | .lui rs _ _ => rs == 0
  | .lb _ _ _ => true
  | .lh _ _ _ => true
  | .lw _ _ _ => true
  | .sb _ _ _ => true
  | .sh _ _ _ => true
  | .sw _ _ _ => true

/-- Each region is a range: `begin <= end` (00_scope.md R5). -/
abbrev Platform.ranged (p : Platform) : Prop := ∀ r ∈ p.regions, r.first.toNat ≤ r.last.toNat

/-- The regions are pairwise disjoint (00_scope.md R5, 20_memory.md R41). -/
abbrev Platform.disjoint (p : Platform) : Prop :=
  p.regions.Pairwise fun r q => r.last.toNat < q.first.toNat ∨ q.last.toNat < r.first.toNat

/-- `TEXT_BASE` is the `begin` of a region, the text region (00_scope.md R5). -/
abbrev Platform.hasText (p : Platform) : Prop := ∃ r ∈ p.regions, r.first = p.textBase

/-- There is a region beside the text region, the data region (00_scope.md R5, 20_memory.md R41). -/
abbrev Platform.hasData (p : Platform) : Prop := ∃ r ∈ p.regions, r.first ≠ p.textBase

/-- The constraints 00_scope.md R5 puts on `REGIONS` and `TEXT_BASE`; no step looks at them. -/
abbrev Platform.wf (p : Platform) : Prop := p.ranged ∧ p.disjoint ∧ p.hasText ∧ p.hasData

end Sys2Proof
end

