-- ==== Sys2Proof/Decode.lean ====
section
/-! DEFINITION. The decoder and, after it, the encoder (30_encoding.md). All numbers but opcode 0x09 are the standard
MIPS32 ones the spec supplies (93_implementation_defined.md G1). -/

namespace Sys2Proof

/-- Why bytes are no instruction: one name per row of the table in 47_system.md R191, and too few bytes. -/
inductive Reject where
  /-- fewer than four bytes: every instruction is one 32-bit word (R70) -/
  | truncated
  /-- opcode 0 and a funct with no row -/
  | funct (f : Six)
  /-- opcode 1 and an rt with no row -/
  | regimm (rt : Five)
  /-- an opcode with no row -/
  | opcode (op : Six)
  deriving DecidableEq, Repr

/-- The eight fields of a word (30_encoding.md R70, R71), which overlap. -/
structure Fields where
  opcode : Six
  rs     : Five
  rt     : Five
  rd     : Five
  shamt  : Five
  funct  : Six
  imm    : Half
  target : BitVec 26
  deriving DecidableEq, Repr

/-- Field extraction, for every word whatever its opcode (30_encoding.md R71). -/
def fieldsOf (w : Word) : Fields where
  opcode := w.extractLsb' 26 6
  rs     := w.extractLsb' 21 5
  rt     := w.extractLsb' 16 5
  rd     := w.extractLsb' 11 5
  shamt  := w.extractLsb' 6 5
  funct  := w.extractLsb' 0 6
  imm    := w.extractLsb' 0 16
  target := w.extractLsb' 0 26

/-- The second level of 30_encoding.md R74: opcode 0, by funct. -/
def decodeSpecial (f : Fields) : Except Reject Instr :=
  match f.funct.toNat with
  | 0x00 => .ok (.sll f.rs f.rt f.rd f.shamt)
  | 0x02 => .ok (.srl f.rs f.rt f.rd f.shamt)
  | 0x03 => .ok (.sra f.rs f.rt f.rd f.shamt)
  | 0x08 => .ok (.jr f.rs f.rt f.rd f.shamt)
  | 0x09 => .ok (.jalr f.rs f.rt f.rd f.shamt)
  | 0x0C => .ok (.syscall (f.rs ++ f.rt ++ f.rd ++ f.shamt))
  | 0x10 => .ok (.mfhi f.rs f.rt f.rd f.shamt)
  | 0x11 => .ok (.mthi f.rs f.rt f.rd f.shamt)
  | 0x12 => .ok (.mflo f.rs f.rt f.rd f.shamt)
  | 0x13 => .ok (.mtlo f.rs f.rt f.rd f.shamt)
  | 0x18 => .ok (.mult f.rs f.rt f.rd f.shamt)
  | 0x19 => .ok (.multu f.rs f.rt f.rd f.shamt)
  | 0x1A => .ok (.div f.rs f.rt f.rd f.shamt)
  | 0x1B => .ok (.divu f.rs f.rt f.rd f.shamt)
  | 0x20 => .ok (.add f.rs f.rt f.rd f.shamt)
  | 0x21 => .ok (.addu f.rs f.rt f.rd f.shamt)
  | 0x22 => .ok (.sub f.rs f.rt f.rd f.shamt)
  | 0x23 => .ok (.subu f.rs f.rt f.rd f.shamt)
  | 0x24 => .ok (.and f.rs f.rt f.rd f.shamt)
  | 0x25 => .ok (.or f.rs f.rt f.rd f.shamt)
  | 0x26 => .ok (.xor f.rs f.rt f.rd f.shamt)
  | 0x27 => .ok (.nor f.rs f.rt f.rd f.shamt)
  | 0x2A => .ok (.slt f.rs f.rt f.rd f.shamt)
  | _ => .error (.funct f.funct)

/-- The third level of 30_encoding.md R74: opcode 1, by rt. -/
def decodeRegimm (f : Fields) : Except Reject Instr :=
  match f.rt.toNat with
  | 0x00 => .ok (.bltz f.rs f.imm)
  | 0x01 => .ok (.bgez f.rs f.imm)
  | _ => .error (.regimm f.rt)

/-- The instruction whose fields these are (30_encoding.md R74): opcode, funct under opcode 0 and rt under opcode 1
select, and nothing else is looked at (92_eei_decisions.md D27). -/
def decodeFields (f : Fields) : Except Reject Instr :=
  match f.opcode.toNat with
  | 0x00 => decodeSpecial f
  | 0x01 => decodeRegimm f
  | 0x02 => .ok (.j f.target)
  | 0x03 => .ok (.jal f.target)
  | 0x04 => .ok (.beq f.rs f.rt f.imm)
  | 0x05 => .ok (.bne f.rs f.rt f.imm)
  | 0x06 => .ok (.blez f.rs f.rt f.imm)
  | 0x07 => .ok (.bgtz f.rs f.rt f.imm)
  | 0x08 => .ok (.addi f.rs f.rt f.imm)
  | 0x09 => .ok (.addiu f.rs f.rt f.imm)
  | 0x0A => .ok (.slti f.rs f.rt f.imm)
  | 0x0C => .ok (.andi f.rs f.rt f.imm)
  | 0x0D => .ok (.ori f.rs f.rt f.imm)
  | 0x0E => .ok (.xori f.rs f.rt f.imm)
  | 0x0F => .ok (.lui f.rs f.rt f.imm)
  | 0x20 => .ok (.lb f.rs f.rt f.imm)
  | 0x21 => .ok (.lh f.rs f.rt f.imm)
  | 0x23 => .ok (.lw f.rs f.rt f.imm)
  | 0x28 => .ok (.sb f.rs f.rt f.imm)
  | 0x29 => .ok (.sh f.rs f.rt f.imm)
  | 0x2B => .ok (.sw f.rs f.rt f.imm)
  | _ => .error (.opcode f.opcode)

/-- The instruction a word is, or why it is none. -/
def decode (w : Word) : Except Reject Instr := decodeFields (fieldsOf w)

/-- The word whose byte at the lowest address is `b0` (20_memory.md R46, 30_encoding.md R70). -/
def wordOfBytes (b0 b1 b2 b3 : Byte) : Word := b3 ++ b2 ++ b1 ++ b0

/-- Byte `k` of a word, byte 0 the least significant (20_memory.md R44). -/
def byteOf (w : Word) (k : Nat) : Byte := w.extractLsb' (8 * k) 8

/-- The first instruction of a list of bytes in address order, with the bytes after it. -/
def decodeBytes : List Byte → Except Reject (Instr × List Byte)
  | b0 :: b1 :: b2 :: b3 :: rest =>
    match decode (wordOfBytes b0 b1 b2 b3) with
    | .ok i => .ok (i, rest)
    | .error r => .error r
  | _ => .error .truncated

/-- The R-format word (30_encoding.md R70). -/
def packR (op : Six) (rs rt rd sa : Five) (fn : Six) : Word := op ++ rs ++ rt ++ rd ++ sa ++ fn

/-- The I-format word (30_encoding.md R70). -/
def packI (op : Six) (rs rt : Five) (imm : Half) : Word := op ++ rs ++ rt ++ imm

/-- The J-format word (30_encoding.md R70). -/
def packJ (op : Six) (target : BitVec 26) : Word := op ++ target

/-- The word of an instruction, from the opcode map of 30_encoding.md R74. -/
def encode : Instr → Word
  | .sll rs rt rd sa => packR 0x00 rs rt rd sa 0x00
  | .srl rs rt rd sa => packR 0x00 rs rt rd sa 0x02
  | .sra rs rt rd sa => packR 0x00 rs rt rd sa 0x03
  | .jr rs rt rd sa => packR 0x00 rs rt rd sa 0x08
  | .jalr rs rt rd sa => packR 0x00 rs rt rd sa 0x09
  | .syscall code => (0x00 : Six) ++ code ++ (0x0C : Six)
  | .mfhi rs rt rd sa => packR 0x00 rs rt rd sa 0x10
  | .mthi rs rt rd sa => packR 0x00 rs rt rd sa 0x11
  | .mflo rs rt rd sa => packR 0x00 rs rt rd sa 0x12
  | .mtlo rs rt rd sa => packR 0x00 rs rt rd sa 0x13
  | .mult rs rt rd sa => packR 0x00 rs rt rd sa 0x18
  | .multu rs rt rd sa => packR 0x00 rs rt rd sa 0x19
  | .div rs rt rd sa => packR 0x00 rs rt rd sa 0x1A
  | .divu rs rt rd sa => packR 0x00 rs rt rd sa 0x1B
  | .add rs rt rd sa => packR 0x00 rs rt rd sa 0x20
  | .addu rs rt rd sa => packR 0x00 rs rt rd sa 0x21
  | .sub rs rt rd sa => packR 0x00 rs rt rd sa 0x22
  | .subu rs rt rd sa => packR 0x00 rs rt rd sa 0x23
  | .and rs rt rd sa => packR 0x00 rs rt rd sa 0x24
  | .or rs rt rd sa => packR 0x00 rs rt rd sa 0x25
  | .xor rs rt rd sa => packR 0x00 rs rt rd sa 0x26
  | .nor rs rt rd sa => packR 0x00 rs rt rd sa 0x27
  | .slt rs rt rd sa => packR 0x00 rs rt rd sa 0x2A
  | .bltz rs imm => packI 0x01 rs 0x00 imm
  | .bgez rs imm => packI 0x01 rs 0x01 imm
  | .j target => packJ 0x02 target
  | .jal target => packJ 0x03 target
  | .beq rs rt imm => packI 0x04 rs rt imm
  | .bne rs rt imm => packI 0x05 rs rt imm
  | .blez rs rt imm => packI 0x06 rs rt imm
  | .bgtz rs rt imm => packI 0x07 rs rt imm
  | .addi rs rt imm => packI 0x08 rs rt imm
  | .addiu rs rt imm => packI 0x09 rs rt imm
  | .slti rs rt imm => packI 0x0A rs rt imm
  | .andi rs rt imm => packI 0x0C rs rt imm
  | .ori rs rt imm => packI 0x0D rs rt imm
  | .xori rs rt imm => packI 0x0E rs rt imm
  | .lui rs rt imm => packI 0x0F rs rt imm
  | .lb rs rt imm => packI 0x20 rs rt imm
  | .lh rs rt imm => packI 0x21 rs rt imm
  | .lw rs rt imm => packI 0x23 rs rt imm
  | .sb rs rt imm => packI 0x28 rs rt imm
  | .sh rs rt imm => packI 0x29 rs rt imm
  | .sw rs rt imm => packI 0x2B rs rt imm

/-- The four bytes of an instruction in address order (30_encoding.md R75). -/
def encodeBytes (i : Instr) : List Byte :=
  [byteOf (encode i) 0, byteOf (encode i) 1, byteOf (encode i) 2, byteOf (encode i) 3]

/-- What a row of spec/opcode_table.json fixes: a word `w` is the row's instruction when `w & mask = bits`. -/
structure Row where
  mask : Word
  bits : Word
  deriving DecidableEq, Repr

/-- The row of the opcode table an instruction stands for. -/
def Instr.row : Instr → Row
  | .sll _ _ _ _ => ⟨0xFC00003F, 0x00000000⟩
  | .srl _ _ _ _ => ⟨0xFC00003F, 0x00000002⟩
  | .sra _ _ _ _ => ⟨0xFC00003F, 0x00000003⟩
  | .jr _ _ _ _ => ⟨0xFC00003F, 0x00000008⟩
  | .jalr _ _ _ _ => ⟨0xFC00003F, 0x00000009⟩
  | .syscall _ => ⟨0xFC00003F, 0x0000000C⟩
  | .mfhi _ _ _ _ => ⟨0xFC00003F, 0x00000010⟩
  | .mthi _ _ _ _ => ⟨0xFC00003F, 0x00000011⟩
  | .mflo _ _ _ _ => ⟨0xFC00003F, 0x00000012⟩
  | .mtlo _ _ _ _ => ⟨0xFC00003F, 0x00000013⟩
  | .mult _ _ _ _ => ⟨0xFC00003F, 0x00000018⟩
  | .multu _ _ _ _ => ⟨0xFC00003F, 0x00000019⟩
  | .div _ _ _ _ => ⟨0xFC00003F, 0x0000001A⟩
  | .divu _ _ _ _ => ⟨0xFC00003F, 0x0000001B⟩
  | .add _ _ _ _ => ⟨0xFC00003F, 0x00000020⟩
  | .addu _ _ _ _ => ⟨0xFC00003F, 0x00000021⟩
  | .sub _ _ _ _ => ⟨0xFC00003F, 0x00000022⟩
  | .subu _ _ _ _ => ⟨0xFC00003F, 0x00000023⟩
  | .and _ _ _ _ => ⟨0xFC00003F, 0x00000024⟩
  | .or _ _ _ _ => ⟨0xFC00003F, 0x00000025⟩
  | .xor _ _ _ _ => ⟨0xFC00003F, 0x00000026⟩
  | .nor _ _ _ _ => ⟨0xFC00003F, 0x00000027⟩
  | .slt _ _ _ _ => ⟨0xFC00003F, 0x0000002A⟩
  | .bltz _ _ => ⟨0xFC1F0000, 0x04000000⟩
  | .bgez _ _ => ⟨0xFC1F0000, 0x04010000⟩
  | .j _ => ⟨0xFC000000, 0x08000000⟩
  | .jal _ => ⟨0xFC000000, 0x0C000000⟩
  | .beq _ _ _ => ⟨0xFC000000, 0x10000000⟩
  | .bne _ _ _ => ⟨0xFC000000, 0x14000000⟩
  | .blez _ _ _ => ⟨0xFC000000, 0x18000000⟩
  | .bgtz _ _ _ => ⟨0xFC000000, 0x1C000000⟩
  | .addi _ _ _ => ⟨0xFC000000, 0x20000000⟩
  | .addiu _ _ _ => ⟨0xFC000000, 0x24000000⟩
  | .slti _ _ _ => ⟨0xFC000000, 0x28000000⟩
  | .andi _ _ _ => ⟨0xFC000000, 0x30000000⟩
  | .ori _ _ _ => ⟨0xFC000000, 0x34000000⟩
  | .xori _ _ _ => ⟨0xFC000000, 0x38000000⟩
  | .lui _ _ _ => ⟨0xFC000000, 0x3C000000⟩
  | .lb _ _ _ => ⟨0xFC000000, 0x80000000⟩
  | .lh _ _ _ => ⟨0xFC000000, 0x84000000⟩
  | .lw _ _ _ => ⟨0xFC000000, 0x8C000000⟩
  | .sb _ _ _ => ⟨0xFC000000, 0xA0000000⟩
  | .sh _ _ _ => ⟨0xFC000000, 0xA4000000⟩
  | .sw _ _ _ => ⟨0xFC000000, 0xAC000000⟩

/-- The instruction the decoder reads from a word of the opcode table, laid out as memory holds it (20_memory.md R46).
Every instruction has 32 bits; bits of `w` above `nbits` count as zero. -/
def decodeTableWord (nbits w : Nat) : Option Instr :=
  let v := BitVec.ofNat 32 (w % 2 ^ nbits)
  match decodeBytes [byteOf v 0, byteOf v 1, byteOf v 2, byteOf v 3] with
  | .ok (i, _) => some i
  | .error _ => none

end Sys2Proof
end

