-- ==== Sys2Proof/Machine/Flags.lean ====
section
/-! DEFINITION. The hardware has no condition codes and no arithmetic flag (10_state.md section 5). What would be a
flag elsewhere is a value here: the result of the two compares, and the test SYSCALL makes. -/

namespace Sys2Proof.Machine

/-- `1 if u(a) < u(b) else 0`, the unsigned compare of SLT (43_alu_register.md R153). -/
def setIfBelow (a b : Word) : Word := if a.toNat < b.toNat then 1 else 0

/-- `1 if s(a) < s(b) else 0`, the signed compare of SLTI (44_alu_immediate.md R157). -/
def setIfLess (a b : Word) : Word := if a.toInt < b.toInt then 1 else 0

/-- `HALT_CODE` (00_scope.md R5). -/
def haltCode : Word := 0xA

/-- `HALT_REG`, the register SYSCALL tests (00_scope.md R5). -/
def haltReg : Five := 2

end Sys2Proof.Machine
end

