-- ==== Sys2Proof/Machine/Operands.lean ====
section
/-! DEFINITION. The operand forms: how an immediate is widened, the effective address, what a load keeps of a word and
what a store merges into one. -/

namespace Sys2Proof.Machine

/-- `sext_32(imm)` (30_encoding.md R72: loads, stores, ADDI, ADDIU, SLTI). -/
def sext32 (imm : Half) : Word := imm.signExtend 32

/-- `zext_32(imm)` (30_encoding.md R72: ANDI, ORI, XORI). -/
def zext32 (imm : Half) : Word := imm.zeroExtend 32

/-- `imm ++ 0x0000` (30_encoding.md R72: LUI). -/
def upper (imm : Half) : Word := imm ++ (0 : Half)

/-- `EA = A + sext_32(imm)` modulo 2^32 (45_load_store.md; 92_eei_decisions.md D21). -/
def effectiveAddress (a : Word) (imm : Half) : Word := a + sext32 imm

/-- `sext_32(w[7:0])`, what LB loads (45_load_store.md R165). -/
def loadedByte (w : Word) : Word := (w.extractLsb' 0 8).signExtend 32

/-- `sext_32(w[15:0])`, what LH loads (45_load_store.md R166). -/
def loadedHalf (w : Word) : Word := (w.extractLsb' 0 16).signExtend 32

/-- `w[31:8] ++ b[7:0]`, what SB writes back (45_load_store.md R168). -/
def mergeByte (w b : Word) : Word := w.extractLsb' 8 24 ++ b.extractLsb' 0 8

/-- `w[31:16] ++ b[15:0]`, what SH writes back (45_load_store.md R169). -/
def mergeHalf (w b : Word) : Word := w.extractLsb' 16 16 ++ b.extractLsb' 0 16

/-- `p[63:32]` of a product (42_hilo_muldiv.md R139, R140). -/
def highHalf (p : BitVec 64) : Word := p.extractLsb' 32 32

/-- `p[31:0]` of a product (42_hilo_muldiv.md R139, R140). -/
def lowHalf (p : BitVec 64) : Word := p.extractLsb' 0 32

end Sys2Proof.Machine
end

