-- ==== Sys2Proof/Machine/Platform.lean ====
section
/-! DEFINITION. The platform `State.reset` is built on, and the region lookup (20_memory.md R41). -/

namespace Sys2Proof

/-- The platform of `State.reset`: the test configuration of 95_test_vectors.md section 0. The spec gives `REGIONS` and
`TEXT_BASE` no value (92_eei_decisions.md D1) and takes this one from general knowledge (93_implementation_defined.md
G11). PRESUMED, assumption log 1; every other definition takes the platform a state carries. -/
def resetPlatform : Platform where
  regions := [⟨0x00400000, 0x0FFFFFFF⟩, ⟨0x10010000, 0x7FFFFFFF⟩]
  textBase := 0x00400000

/-- Whether an address lies in a region, the bounds inclusive, compared as unsigned numbers (20_memory.md R41). -/
def Region.contains (r : Region) (a : Word) : Bool := r.first.toNat ≤ a.toNat && a.toNat ≤ r.last.toNat

/-- `region_of(a)`: a linear scan (20_memory.md R41). -/
def Platform.regionOf (p : Platform) (a : Word) : Option Region := p.regions.find? fun r => r.contains a

end Sys2Proof
end

