-- ==== Sys2Proof/Machine/State.lean ====
section
/-! DEFINITION. The state of the machine, its faults and refusals, and its reset value (10_state.md). -/

namespace Sys2Proof.Machine

/-- One architectural snapshot (10_state.md R10). Register 0 is an ordinary register (R13). -/
structure Snapshot where
  regs : Vector Word 32
  hi   : Word
  lo   : Word
  pc   : Word
  deriving DecidableEq, Repr

/-- The Fetch-Decode latch (10_state.md R19). -/
structure IfId where
  ir : Word
  pc : Word
  deriving DecidableEq, Repr

/-- The Decode-Execute latch (10_state.md R20). -/
structure IdEx where
  ir     : Word
  pc     : Word
  opcode : Six
  rs     : Five
  rt     : Five
  rd     : Five
  shamt  : Five
  funct  : Six
  imm    : Half
  target : BitVec 26
  a      : Word
  b      : Word
  deriving DecidableEq, Repr

/-- The Execute-Memory latch (10_state.md R21). -/
structure ExMem where
  ir        : Word
  pc        : Word
  opcode    : Six
  funct     : Six
  a         : Word
  b         : Word
  dest      : Five
  aluOutput : Word
  deriving DecidableEq, Repr

/-- The Memory-Writeback latch (10_state.md R22). -/
structure MemWb where
  ir        : Word
  pc        : Word
  opcode    : Six
  funct     : Six
  dest      : Five
  aluOutput : Word
  lmd       : Word
  deriving DecidableEq, Repr

/-- The three diagnostic outputs of a cycle: `unimpl_EX`, `unimpl_MEM`, `unimpl_WB` (60_exceptions.md R203). -/
structure Reports where
  ex  : Bool
  mem : Bool
  wb  : Bool
  deriving DecidableEq, Repr

/-- The three stages whose work depends on the instruction (40_pipeline.md R96, R99, R102). -/
inductive Stage where
  | ex
  | mem
  | wb
  deriving DecidableEq, Repr

/-- Memory: the bytes that are not zero, by rising address; an address not listed holds 0, as reset leaves every byte
(10_state.md R26, R27). The bytes of all regions stand in one list, which the disjoint regions (20_memory.md R41)
allow. Assumption log 5. -/
abbrev Memory := List Host.Cell

/-- What stops a run. -/
inductive Fault where
  /-- An access that starts inside a region and ends beyond it (20_memory.md R45, 92_eei_decisions.md D20), raised by
  `read32` and `write32`, whichever stage calls them. Safe: the spec gives the access no value. Assumption log 8. -/
  | regionOverrun
  deriving DecidableEq, Repr

/-- What the model gives no meaning. -/
inductive Refusal where
  /-- An instruction without a meaning, raised by an arm of `exec`; no arm raises it. Safe. -/
  | notModelled (mnemonic : String)
  deriving DecidableEq, Repr

/-- All the state of 10_state.md, and four fields of the model's own (the last four; INVENTORY.md, State;
assumption log 1, 6, 7, 3). -/
structure State where
  /-- the current snapshot, which every read of a stage reads (R10) -/
  cur        : Snapshot
  /-- the next snapshot, which every write of a stage writes (R10) -/
  nxt        : Snapshot
  ifId       : IfId
  idEx       : IdEx
  exMem      : ExMem
  memWb      : MemWb
  /-- the run/stop flag (R23) -/
  run        : Bool
  /-- `CYCLE_COUNT` (R24) -/
  cycleCount : Nat
  /-- `INSTRUCTION_COUNT` (R25) -/
  instrCount : Nat
  mem        : Memory
  /-- the platform the machine was built on; no step changes it (00_scope.md R5) -/
  platform   : Platform
  /-- the diagnostic outputs of the latest cycle (60_exceptions.md R203) -/
  reports    : Reports
  /-- the stage whose engine is at work; between cycles the first of a cycle, `wb` (40_pipeline.md R90) -/
  stage      : Stage
  /-- how many free words have been drawn (93_implementation_defined.md U2) -/
  freeDraws  : Nat
  deriving DecidableEq, Repr

/-- A snapshot after reset: all zero but the PC (10_state.md R27). -/
def Snapshot.reset (textBase : Word) : Snapshot where
  regs := Vector.replicate 32 0
  hi := 0
  lo := 0
  pc := textBase

/-- The state after `reset()` on a platform (10_state.md R27, 70_reset_and_hazards.md R220). -/
def State.resetOn (p : Platform) : State where
  cur := Snapshot.reset p.textBase
  nxt := Snapshot.reset p.textBase
  ifId := ⟨0, 0⟩
  idEx := ⟨0, 0, 0, 0, 0, 0, 0, 0, 0, 0, 0, 0⟩
  exMem := ⟨0, 0, 0, 0, 0, 0, 0, 0⟩
  memWb := ⟨0, 0, 0, 0, 0, 0, 0⟩
  run := true
  cycleCount := 0
  instrCount := 0
  mem := []
  platform := p
  reports := ⟨false, false, false⟩
  stage := .wb
  freeDraws := 0

/-- The machine right after reset. -/
def State.reset : State := State.resetOn resetPlatform

end Sys2Proof.Machine
end

