-- ==== Sys2Proof/Machine/Ops.lean ====
section
/-! DEFINITION. The shared operations: registers, memory, the ways each stage can end, decode and fetch, commit.
There is no operation that takes an exception and none that returns from one: the hardware raises none
(60_exceptions.md R200, R205, R206). Its single halt condition is `exHalt`, its report `exUnrec`, `memUnrec`, `wbUnrec`. -/

namespace Sys2Proof.Machine

abbrev Result := Host.Outcome State Fault Refusal

/-- Go on from a next state; a fault or a refusal ends the cycle. -/
def andThen (r : Result) (k : State → Result) : Result :=
  match r with
  | .next s => k s
  | .fault f => .fault f
  | .refused q => .refused q

/-! Registers (10_state.md R12 to R14). -/

/-- The value of a general register of a snapshot. -/
def Snapshot.reg (c : Snapshot) (i : Five) : Word := c.regs[i.toNat]

/-- A snapshot with a general register written; register 0 like any other (10_state.md R13). -/
def Snapshot.setReg (c : Snapshot) (i : Five) (v : Word) : Snapshot := { c with regs := c.regs.set i.toNat v }

/-- `x[i] <- v`: a write goes to `NXT` (10_state.md R10). -/
def State.writeReg (s : State) (i : Five) (v : Word) : State := { s with nxt := s.nxt.setReg i v }

def State.writeHi (s : State) (v : Word) : State := { s with nxt := { s.nxt with hi := v } }

def State.writeLo (s : State) (v : Word) : State := { s with nxt := { s.nxt with lo := v } }

def State.writePc (s : State) (v : Word) : State := { s with nxt := { s.nxt with pc := v } }

/-! Memory (20_memory.md). -/

/-- The byte at an address: what is listed, else 0. -/
def Memory.byteAt : Memory → Nat → Byte
  | [], _ => 0
  | (k, v) :: m, a => if a = k then v else Memory.byteAt m a

/-- Store one byte, keeping the canonical form: a zero byte is not listed. -/
def Memory.put : Memory → Nat → Byte → Memory
  | [], a, v => if v = 0 then [] else [(a, v)]
  | (k, w) :: m, a, v =>
    if a < k then (if v = 0 then (k, w) :: m else (a, v) :: (k, w) :: m)
    else if a = k then (if v = 0 then m else (a, v) :: m)
    else (k, w) :: Memory.put m a v

/-- The canonical form: addresses strictly rising, and no entry equal to what an unlisted address holds. -/
abbrev Memory.wf (m : Memory) : Prop := m.Pairwise (fun c d => c.1 < d.1) ∧ ∀ c ∈ m, c.2 ≠ 0

/-- The four bytes from address `n` on, the lowest address in bits 7:0 (20_memory.md R43, R46). -/
def Memory.wordAt (m : Memory) (n : Nat) : Word :=
  wordOfBytes (m.byteAt n) (m.byteAt (n + 1)) (m.byteAt (n + 2)) (m.byteAt (n + 3))

/-- Four bytes stored from address `n` on, bits 7:0 at the lowest (20_memory.md R44, R46). -/
def Memory.putWord (m : Memory) (n : Nat) (v : Word) : Memory :=
  (((m.put n (byteOf v 0)).put (n + 1) (byteOf v 1)).put (n + 2) (byteOf v 2)).put (n + 3) (byteOf v 3)

/-- `read32(a)` (20_memory.md R42, R43, R45). No address bit is masked (R47). -/
def read32 (p : Platform) (m : Memory) (a : Word) : Except Fault Word :=
  match p.regionOf a with
  | none => .ok 0
  | some r => if a.toNat + 3 ≤ r.last.toNat then .ok (m.wordAt a.toNat) else .error .regionOverrun

/-- `write32(a, v)`, at once (20_memory.md R42, R44, R45). -/
def write32 (p : Platform) (m : Memory) (a v : Word) : Except Fault Memory :=
  match p.regionOf a with
  | none => .ok m
  | some r => if a.toNat + 3 ≤ r.last.toNat then .ok (m.putWord a.toNat v) else .error .regionOverrun

/-- The byte of memory at an address. -/
def State.byteAt (s : State) (n : Nat) : Byte := s.mem.byteAt n

/-- `MemRead(a, 4)`. -/
def State.memRead (s : State) (a : Word) : Except Fault Word := read32 s.platform s.mem a

/-- Go on with the word `MemRead(a, 4)` gives. -/
def State.withRead (s : State) (a : Word) (k : Word → Result) : Result :=
  match s.memRead a with
  | .ok w => k w
  | .error f => .fault f

/-- `MemWrite(a, 4, v)`. -/
def State.memWrite (s : State) (a v : Word) : Result :=
  match write32 s.platform s.mem a v with
  | .ok m => .next { s with mem := m }
  | .error f => .fault f

/-! The execute stage: the pass-through part (40_pipeline.md R95) and the five classes of R96. -/

/-- R95, done for every word before the dispatch. -/
def exPass (s : State) : State :=
  { s with exMem := { s.exMem with
      ir := s.idEx.ir
      pc := s.idEx.pc
      opcode := s.idEx.opcode
      funct := s.idEx.funct
      a := s.idEx.a
      b := s.idEx.b
      dest := if s.idEx.opcode = 0 then s.idEx.rd else s.idEx.rt } }

/-- Class COMPUTE: `EX_MEM.ALUOutput <- v`. -/
def exCompute (v : Word) (s : State) : Result :=
  .next { exPass s with exMem := { (exPass s).exMem with aluOutput := v } }

/-- Class HILO, a write of `NXT.HI` alone. -/
def exHi (v : Word) (s : State) : Result := .next ((exPass s).writeHi v)

/-- Class HILO, a write of `NXT.LO` alone. -/
def exLo (v : Word) (s : State) : Result := .next ((exPass s).writeLo v)

/-- Class HILO, a write of both. -/
def exHiLo (hi lo : Word) (s : State) : Result := .next (((exPass s).writeHi hi).writeLo lo)

/-- Class HILO with both values left open: two fresh free words (42_hilo_muldiv.md R141, 93_implementation_defined.md
U2). DESIGN CHOICE, assumption log 3. -/
def exHiLoFree (s : State) : Result :=
  .next { ((exPass s).writeHi (Config.freeWord s.freeDraws)).writeLo (Config.freeWord (s.freeDraws + 1)) with
    freeDraws := s.freeDraws + 2 }

/-- Class INERT, and class HILO when nothing is written (a zero divisor). -/
def exInert (s : State) : Result := .next (exPass s)

/-- Class HALT: `if CUR.REGS[2] = 0xA then RUN <- 0` (47_system.md R190). -/
def exHalt (s : State) : Result :=
  if s.cur.reg haltReg = haltCode then .next { exPass s with run := false } else .next (exPass s)

/-- Class UNREC: `report unimpl_EX`. -/
def exUnrec (s : State) : Result := .next { exPass s with reports := { s.reports with ex := true } }

/-! The memory stage: the pass-through part (40_pipeline.md R98) and the classes of R99 and R100. -/

/-- R98, done for every word. -/
def memHand (s : State) : State :=
  { s with memWb := { s.memWb with
      ir := s.exMem.ir
      pc := s.exMem.pc
      opcode := s.exMem.opcode
      funct := s.exMem.funct
      dest := s.exMem.dest } }

/-- The pass-through part, and `MEM_WB.ALUOutput <- v`. -/
def memAlu (v : Word) (s : State) : State :=
  { memHand s with memWb := { (memHand s).memWb with aluOutput := v } }

/-- The pass-through part, `MEM_WB.ALUOutput <- EX_MEM.ALUOutput` and `MEM_WB.LMD <- v`. -/
def memLmd (v : Word) (s : State) : State :=
  { memAlu s.exMem.aluOutput s with memWb := { (memAlu s.exMem.aluOutput s).memWb with lmd := v } }

/-- Class PASS. -/
def memPass (s : State) : Result := .next (memAlu s.exMem.aluOutput s)

/-- Class LOADB. -/
def memLoadByte (s : State) : Result :=
  s.withRead s.exMem.aluOutput fun w => .next (memLmd (loadedByte w) s)

/-- Class LOADH. -/
def memLoadHalf (s : State) : Result :=
  s.withRead s.exMem.aluOutput fun w => .next (memLmd (loadedHalf w) s)

/-- Class LOADW: the word goes to `MEM_WB.ALUOutput`, `MEM_WB.LMD` is unmodified (90_conflicts.md C7). -/
def memLoadWord (s : State) : Result :=
  s.withRead s.exMem.aluOutput fun w => .next (memAlu w s)

/-- Class STOREB: a read, then the merged word written back. -/
def memStoreByte (s : State) : Result :=
  s.withRead s.exMem.aluOutput fun w =>
    (memAlu s.exMem.aluOutput s).memWrite s.exMem.aluOutput (mergeByte w s.exMem.b)

/-- Class STOREH: a read, then the merged word written back. -/
def memStoreHalf (s : State) : Result :=
  s.withRead s.exMem.aluOutput fun w =>
    (memAlu s.exMem.aluOutput s).memWrite s.exMem.aluOutput (mergeHalf w s.exMem.b)

/-- Class STOREW. -/
def memStoreWord (s : State) : Result :=
  (memAlu s.exMem.aluOutput s).memWrite s.exMem.aluOutput s.exMem.b

/-- Class UNREC: `report unimpl_MEM`. -/
def memUnrec (s : State) : Result := .next { memHand s with reports := { s.reports with mem := true } }

/-! The writeback stage: the count (40_pipeline.md R105) and the classes of R103. -/

/-- R105, at the start of the stage, whatever the class: policy `nonzero_ir` (92_eei_decisions.md D17). -/
def wbCount (s : State) : State :=
  { s with instrCount := if s.memWb.ir = 0 then s.instrCount else s.instrCount + 1 }

/-- Class WRITE_ALU. -/
def wbWriteAlu (s : State) : Result := .next ((wbCount s).writeReg s.memWb.dest s.memWb.aluOutput)

/-- Class WRITE_LMD. -/
def wbWriteLmd (s : State) : Result := .next ((wbCount s).writeReg s.memWb.dest s.memWb.lmd)

/-- Class NONE. -/
def wbNone (s : State) : Result := .next (wbCount s)

/-- Class UNREC: `report unimpl_WB`. -/
def wbUnrec (s : State) : Result := .next { wbCount s with reports := { s.reports with wb := true } }

/-- The work of an instruction in the stage whose engine is running. -/
def byStage (ex mem wb : State → Result) (s : State) : Result :=
  match s.stage with
  | .ex => ex s
  | .mem => mem s
  | .wb => wb s

/-! The words in the latches. -/

/-- The fields EX dispatches on and computes from (40_pipeline.md R96). -/
def IdEx.fields (l : IdEx) : Fields :=
  ⟨l.opcode, l.rs, l.rt, l.rd, l.shamt, l.funct, l.imm, l.target⟩

/-- The word whose opcode and funct fields are those a later latch carries: MEM and WB dispatch on these two
(40_pipeline.md R99, R102); the other bits are the latched word's. -/
def latchedWord (opcode funct : Six) (ir : Word) : Word := opcode ++ ir.extractLsb' 6 20 ++ funct

/-- What `ID_EX` holds. -/
def IdEx.instr (l : IdEx) : Except Reject Instr := decodeFields l.fields

/-- What `EX_MEM` holds. -/
def ExMem.instr (l : ExMem) : Except Reject Instr := decode (latchedWord l.opcode l.funct l.ir)

/-- What `MEM_WB` holds. -/
def MemWb.instr (l : MemWb) : Except Reject Instr := decode (latchedWord l.opcode l.funct l.ir)

/-! Decode and fetch (40_pipeline.md R93, R94): the same for every word. -/

/-- What ID latches for the word `w` at address `pc` (40_pipeline.md R94); the registers are those of `CUR`. -/
def decodedLatch (w pc : Word) (c : Snapshot) : IdEx where
  ir := w
  pc := pc
  opcode := (fieldsOf w).opcode
  rs := (fieldsOf w).rs
  rt := (fieldsOf w).rt
  rd := (fieldsOf w).rd
  shamt := (fieldsOf w).shamt
  funct := (fieldsOf w).funct
  imm := (fieldsOf w).imm
  target := (fieldsOf w).target
  a := c.reg (fieldsOf w).rs
  b := c.reg (fieldsOf w).rt

/-- `ID()`: the word is read again at the latch's PC; `IF_ID.IR` is not used (40_pipeline.md R94). -/
def idStage (s : State) : Result :=
  s.withRead s.ifId.pc fun w => .next { s with idEx := decodedLatch w s.ifId.pc s.cur }

/-- `IF()` (40_pipeline.md R93). -/
def ifStage (s : State) : Result :=
  s.withRead s.cur.pc fun w => .next ({ s with ifId := ⟨w, s.cur.pc⟩ }.writePc (s.cur.pc + 4))

/-- The end of a cycle: `CUR <- NXT`, all fields (40_pipeline.md R92), then the cycle counter (R90). -/
def commit (s : State) : State :=
  { s with cur := s.nxt, cycleCount := s.cycleCount + 1, stage := .wb }

end Sys2Proof.Machine
end

