-- ==== Sys2Proof/Machine/AluImmediate.lean ====
section
/-! DEFINITION. Immediate ALU instructions (44_alu_immediate.md). -/

namespace Sys2Proof.Machine

/-- ADDI: the wrapped sum, no trap (R155). -/
def execAddi (imm : Half) (s : State) : Result :=
  byStage (exCompute (s.idEx.a + sext32 imm)) memPass wbWriteAlu s

/-- ADDIU (R156). -/
def execAddiu (imm : Half) (s : State) : Result :=
  byStage (exCompute (s.idEx.a + sext32 imm)) memPass wbWriteAlu s

/-- SLTI: signed compare (R157). -/
def execSlti (imm : Half) (s : State) : Result :=
  byStage (exCompute (setIfLess s.idEx.a (sext32 imm))) memPass wbWriteAlu s

/-- ANDI (R158). -/
def execAndi (imm : Half) (s : State) : Result :=
  byStage (exCompute (s.idEx.a &&& zext32 imm)) memPass wbWriteAlu s

/-- ORI (R159). -/
def execOri (imm : Half) (s : State) : Result :=
  byStage (exCompute (s.idEx.a ||| zext32 imm)) memPass wbWriteAlu s

/-- XORI (R160). -/
def execXori (imm : Half) (s : State) : Result :=
  byStage (exCompute (s.idEx.a ^^^ zext32 imm)) memPass wbWriteAlu s

/-- LUI: computed, passed, and unrecognised by WB (R161). -/
def execLui (imm : Half) (s : State) : Result :=
  byStage (exCompute (upper imm)) memPass wbUnrec s

end Sys2Proof.Machine
end

