-- ==== Sys2Proof/Machine/AluRegister.lean ====
section
/-! DEFINITION. Register-register ALU instructions (43_alu_register.md): the whitelist of eight, and SLT, which is not written back. -/

namespace Sys2Proof.Machine

/-- ADD: the wrapped sum, no trap (R145). -/
def execAdd (s : State) : Result :=
  byStage (exCompute (s.idEx.a + s.idEx.b)) memPass wbWriteAlu s

/-- ADDU (R146). -/
def execAddu (s : State) : Result :=
  byStage (exCompute (s.idEx.a + s.idEx.b)) memPass wbWriteAlu s

/-- SUB: the wrapped difference, no trap (R147). -/
def execSub (s : State) : Result :=
  byStage (exCompute (s.idEx.a - s.idEx.b)) memPass wbWriteAlu s

/-- SUBU (R148). -/
def execSubu (s : State) : Result :=
  byStage (exCompute (s.idEx.a - s.idEx.b)) memPass wbWriteAlu s

/-- AND (R149). -/
def execAnd (s : State) : Result :=
  byStage (exCompute (s.idEx.a &&& s.idEx.b)) memPass wbWriteAlu s

/-- OR (R150). -/
def execOr (s : State) : Result :=
  byStage (exCompute (s.idEx.a ||| s.idEx.b)) memPass wbWriteAlu s

/-- XOR (R151). -/
def execXor (s : State) : Result :=
  byStage (exCompute (s.idEx.a ^^^ s.idEx.b)) memPass wbWriteAlu s

/-- NOR (R152). -/
def execNor (s : State) : Result :=
  byStage (exCompute (~~~(s.idEx.a ||| s.idEx.b))) memPass wbWriteAlu s

/-- SLT: unsigned compare, computed and dropped (R153). -/
def execSlt (s : State) : Result :=
  byStage (exCompute (setIfBelow s.idEx.a s.idEx.b)) memPass wbNone s

end Sys2Proof.Machine
end

