-- ==== Sys2Proof/Machine/Control.lean ====
section
/-! DEFINITION. Branches and jumps (46_control_inert.md): inert in EX; all but JR and JALR unrecognised by MEM and WB. -/

namespace Sys2Proof.Machine

/-- J (R175). -/
def execJ (s : State) : Result :=
  byStage exInert memUnrec wbUnrec s

/-- JAL (R176). -/
def execJal (s : State) : Result :=
  byStage exInert memUnrec wbUnrec s

/-- JR (R177). -/
def execJr (s : State) : Result :=
  byStage exInert memPass wbNone s

/-- JALR (R178). -/
def execJalr (s : State) : Result :=
  byStage exInert memPass wbNone s

/-- BEQ (R179). -/
def execBeq (s : State) : Result :=
  byStage exInert memUnrec wbUnrec s

/-- BNE (R180). -/
def execBne (s : State) : Result :=
  byStage exInert memUnrec wbUnrec s

/-- BLEZ (R181). -/
def execBlez (s : State) : Result :=
  byStage exInert memUnrec wbUnrec s

/-- BGTZ (R182). -/
def execBgtz (s : State) : Result :=
  byStage exInert memUnrec wbUnrec s

/-- BLTZ (R183). -/
def execBltz (s : State) : Result :=
  byStage exInert memUnrec wbUnrec s

/-- BGEZ (R184). -/
def execBgez (s : State) : Result :=
  byStage exInert memUnrec wbUnrec s

end Sys2Proof.Machine
end

