-- ==== Sys2Proof/Machine/HiLo.lean ====
section
/-! DEFINITION. HI/LO moves, multiply and divide (42_hilo_muldiv.md). None writes a general register. -/

namespace Sys2Proof.Machine

/-- MFHI: `CUR.HI` is computed and dropped (R135). -/
def execMfhi (s : State) : Result :=
  byStage (exCompute s.cur.hi) memPass wbNone s

/-- MTHI (R136). -/
def execMthi (s : State) : Result :=
  byStage (exHi s.idEx.a) memPass wbNone s

/-- MFLO: `CUR.LO` is computed and dropped (R137). -/
def execMflo (s : State) : Result :=
  byStage (exCompute s.cur.lo) memPass wbNone s

/-- MTLO (R138). -/
def execMtlo (s : State) : Result :=
  byStage (exLo s.idEx.a) memPass wbNone s

/-- `sext_64(A) * sext_64(B)` modulo 2^64 (R139). -/
def signedProduct (a b : Word) : BitVec 64 := a.signExtend 64 * b.signExtend 64

/-- `zext_64(A) * zext_64(B)` (R140). -/
def unsignedProduct (a b : Word) : BitVec 64 := a.zeroExtend 64 * b.zeroExtend 64

/-- MULT (R139). -/
def execMult (s : State) : Result :=
  byStage (exHiLo (highHalf (signedProduct s.idEx.a s.idEx.b)) (lowHalf (signedProduct s.idEx.a s.idEx.b))) memPass wbNone s

/-- MULTU (R140). -/
def execMultu (s : State) : Result :=
  byStage (exHiLo (highHalf (unsignedProduct s.idEx.a s.idEx.b)) (lowHalf (unsignedProduct s.idEx.a s.idEx.b))) memPass wbNone s

/-- The signed quotient, rounded toward zero (R141). -/
def signedQuotient (a b : Word) : Word := BitVec.ofInt 32 (a.toInt.tdiv b.toInt)

/-- The signed remainder, `s(A) - q * s(B)`, with the sign of the dividend (R141). -/
def signedRemainder (a b : Word) : Word := BitVec.ofInt 32 (a.toInt.tmod b.toInt)

/-- The execute stage of DIV (R141): a zero divisor is skipped, `0x80000000 / 0xFFFFFFFF` leaves HI and LO open. -/
def divide (s : State) : Result :=
  if s.idEx.b = 0 then exInert s
  else if s.idEx.a = 0x80000000 ∧ s.idEx.b = 0xFFFFFFFF then exHiLoFree s
  else exHiLo (signedRemainder s.idEx.a s.idEx.b) (signedQuotient s.idEx.a s.idEx.b) s

/-- The execute stage of DIVU (R142): a zero divisor is skipped. -/
def divideUnsigned (s : State) : Result :=
  if s.idEx.b = 0 then exInert s
  else exHiLo (BitVec.ofNat 32 (s.idEx.a.toNat % s.idEx.b.toNat)) (BitVec.ofNat 32 (s.idEx.a.toNat / s.idEx.b.toNat)) s

/-- DIV (R141). -/
def execDiv (s : State) : Result :=
  byStage divide memPass wbNone s

/-- DIVU (R142). -/
def execDivu (s : State) : Result :=
  byStage divideUnsigned memPass wbNone s

end Sys2Proof.Machine
end

