-- ==== Sys2Proof/Machine/LoadStore.lean ====
section
/-! DEFINITION. Loads and stores (45_load_store.md). -/

namespace Sys2Proof.Machine

/-- LB (R165). -/
def execLb (imm : Half) (s : State) : Result :=
  byStage (exCompute (effectiveAddress s.idEx.a imm)) memLoadByte wbWriteLmd s

/-- LH (R166). -/
def execLh (imm : Half) (s : State) : Result :=
  byStage (exCompute (effectiveAddress s.idEx.a imm)) memLoadHalf wbWriteLmd s

/-- LW: the word read goes to `ALUOutput`, the register gets the stale LMD (R167). -/
def execLw (imm : Half) (s : State) : Result :=
  byStage (exCompute (effectiveAddress s.idEx.a imm)) memLoadWord wbWriteLmd s

/-- SB (R168). -/
def execSb (imm : Half) (s : State) : Result :=
  byStage (exCompute (effectiveAddress s.idEx.a imm)) memStoreByte wbNone s

/-- SH (R169). -/
def execSh (imm : Half) (s : State) : Result :=
  byStage (exCompute (effectiveAddress s.idEx.a imm)) memStoreHalf wbNone s

/-- SW (R170). -/
def execSw (imm : Half) (s : State) : Result :=
  byStage (exCompute (effectiveAddress s.idEx.a imm)) memStoreWord wbNone s

end Sys2Proof.Machine
end

