-- ==== Sys2Proof/Machine/Shift.lean ====
section
/-! DEFINITION. Shifts (41_shift.md): computed, never written back. -/

namespace Sys2Proof.Machine

/-- SLL: B shifted left, zeros enter (R130). -/
def execSll (sa : Five) (s : State) : Result :=
  byStage (exCompute (s.idEx.b <<< sa.toNat)) memPass wbNone s

/-- SRL: B shifted right, zeros enter (R131). -/
def execSrl (sa : Five) (s : State) : Result :=
  byStage (exCompute (s.idEx.b >>> sa.toNat)) memPass wbNone s

/-- SRA: B shifted right, copies of its top bit enter (R132). -/
def execSra (sa : Five) (s : State) : Result :=
  byStage (exCompute (s.idEx.b.sshiftRight sa.toNat)) memPass wbNone s

end Sys2Proof.Machine
end

