-- ==== Sys2Proof/Machine/System.lean ====
section
/-! DEFINITION. SYSCALL (47_system.md R190): it halts when register 2 holds 0xA, and does nothing otherwise. -/

namespace Sys2Proof.Machine

/-- SYSCALL (R190). -/
def execSyscall (s : State) : Result :=
  byStage exHalt memPass wbNone s

end Sys2Proof.Machine
end

