-- ==== Sys2Proof/Machine/Dispatch.lean ====
section
/-! DEFINITION. One arm per instruction: what the engine of the stage `s.stage` does for the instruction it finds in
its latch (40_pipeline.md R95 to R105). -/

namespace Sys2Proof.Machine

def exec (i : Instr) (s : State) : Host.Outcome State Fault Refusal :=
  match i with
  | .sll _ _ _ sa => Sys2Proof.Machine.execSll sa s
  | .srl _ _ _ sa => Sys2Proof.Machine.execSrl sa s
  | .sra _ _ _ sa => Sys2Proof.Machine.execSra sa s
  | .jr _ _ _ _ => Sys2Proof.Machine.execJr s
  | .jalr _ _ _ _ => Sys2Proof.Machine.execJalr s
  | .syscall _ => Sys2Proof.Machine.execSyscall s
  | .mfhi _ _ _ _ => Sys2Proof.Machine.execMfhi s
  | .mthi _ _ _ _ => Sys2Proof.Machine.execMthi s
  | .mflo _ _ _ _ => Sys2Proof.Machine.execMflo s
  | .mtlo _ _ _ _ => Sys2Proof.Machine.execMtlo s
  | .mult _ _ _ _ => Sys2Proof.Machine.execMult s
  | .multu _ _ _ _ => Sys2Proof.Machine.execMultu s
  | .div _ _ _ _ => Sys2Proof.Machine.execDiv s
  | .divu _ _ _ _ => Sys2Proof.Machine.execDivu s
  | .add _ _ _ _ => Sys2Proof.Machine.execAdd s
  | .addu _ _ _ _ => Sys2Proof.Machine.execAddu s
  | .sub _ _ _ _ => Sys2Proof.Machine.execSub s
  | .subu _ _ _ _ => Sys2Proof.Machine.execSubu s
  | .and _ _ _ _ => Sys2Proof.Machine.execAnd s
  | .or _ _ _ _ => Sys2Proof.Machine.execOr s
  | .xor _ _ _ _ => Sys2Proof.Machine.execXor s
  | .nor _ _ _ _ => Sys2Proof.Machine.execNor s
  | .slt _ _ _ _ => Sys2Proof.Machine.execSlt s
  | .bltz _ _ => Sys2Proof.Machine.execBltz s
  | .bgez _ _ => Sys2Proof.Machine.execBgez s
  | .j _ => Sys2Proof.Machine.execJ s
  | .jal _ => Sys2Proof.Machine.execJal s
  | .beq _ _ _ => Sys2Proof.Machine.execBeq s
  | .bne _ _ _ => Sys2Proof.Machine.execBne s
  | .blez _ _ _ => Sys2Proof.Machine.execBlez s
  | .bgtz _ _ _ => Sys2Proof.Machine.execBgtz s
  | .addi _ _ imm => Sys2Proof.Machine.execAddi imm s
  | .addiu _ _ imm => Sys2Proof.Machine.execAddiu imm s
  | .slti _ _ imm => Sys2Proof.Machine.execSlti imm s
  | .andi _ _ imm => Sys2Proof.Machine.execAndi imm s
  | .ori _ _ imm => Sys2Proof.Machine.execOri imm s
  | .xori _ _ imm => Sys2Proof.Machine.execXori imm s
  | .lui _ _ imm => Sys2Proof.Machine.execLui imm s
  | .lb _ _ imm => Sys2Proof.Machine.execLb imm s
  | .lh _ _ imm => Sys2Proof.Machine.execLh imm s
  | .lw _ _ imm => Sys2Proof.Machine.execLw imm s
  | .sb _ _ imm => Sys2Proof.Machine.execSb imm s
  | .sh _ _ imm => Sys2Proof.Machine.execSh imm s
  | .sw _ _ imm => Sys2Proof.Machine.execSw imm s

end Sys2Proof.Machine
end

