-- ==== Sys2Proof/Machine/Engine.lean ====
section
/-! DEFINITION. The stage engines and the cycle driver (40_pipeline.md R90), and where an unrecognised word goes
(47_system.md R191). -/

namespace Sys2Proof.Machine

def State.atStage (s : State) (st : Stage) : State := { s with stage := st }

/-- `EX()` (40_pipeline.md R95, R96). -/
def exEngine (s : State) : Result :=
  match s.idEx.instr with
  | .ok i => exec i (s.atStage .ex)
  | .error _ => exUnrec (s.atStage .ex)

/-- MEM on a word that is no instruction: every opcode-0 word passes (40_pipeline.md R101). -/
def memUnrecognised (s : State) : Result := if s.exMem.opcode = 0 then memPass s else memUnrec s

/-- `MEM()` (40_pipeline.md R98 to R101). -/
def memEngine (s : State) : Result :=
  match s.exMem.instr with
  | .ok i => exec i (s.atStage .mem)
  | .error _ => memUnrecognised (s.atStage .mem)

/-- WB on a word that is no instruction: opcode 0 is class NONE (40_pipeline.md R104). -/
def wbUnrecognised (s : State) : Result := if s.memWb.opcode = 0 then wbNone s else wbUnrec s

/-- `WB()` (40_pipeline.md R102 to R105). -/
def wbEngine (s : State) : Result :=
  match s.memWb.instr with
  | .ok i => exec i (s.atStage .wb)
  | .error _ => wbUnrecognised (s.atStage .wb)

/-- The diagnostic outputs are false in a cycle until a stage reports (60_exceptions.md R203). -/
def clearReports (s : State) : State := { s with reports := ⟨false, false, false⟩ }

/-- `cycle()`: WB, MEM, EX, ID, IF, in this order and to completion, then the commit and the count
(40_pipeline.md R90). A cycle in which an access overruns its region is a fault, with no next state. -/
def cycle (s : State) : Result :=
  andThen (wbEngine (clearReports s)) fun s =>
  andThen (memEngine s) fun s =>
  andThen (exEngine s) fun s =>
  andThen (idStage s) fun s =>
  andThen (ifStage s) fun s =>
  .next (commit s)

/-- One active clock edge: a cycle while `RUN = 1`, nothing while `RUN = 0` (00_scope.md R8, 60_exceptions.md R210,
92_eei_decisions.md D16). DESIGN CHOICE, assumption log 2: the edge of a halted core is a step to the same state. -/
def clockEdge (s : State) : Result := if s.run then cycle s else .next s

/-- `run(n)`: at most `n` cycles, stopping when `RUN = 0` (40_pipeline.md R106). -/
def runFor : Nat → State → Result
  | 0, s => .next s
  | n + 1, s => if s.run then andThen (cycle s) (runFor n) else .next s

/-- `run_to_completion()`: cycles until `RUN = 0` (40_pipeline.md R106). It may never end (00_scope.md R9), so it is a
relation: from `s` it ends in `t`. -/
def runsToCompletion (s t : State) : Prop := ∃ n, runFor n s = .next t ∧ t.run = false

/-- A state in which the execute stage finds the word `w`: `ID_EX` as ID leaves it for `w` (40_pipeline.md R94), at the
address an instruction in EX was fetched from (10_state.md R15), with the core running. -/
def State.withWordInExecute (s : State) (w : Word) : State :=
  { s with idEx := decodedLatch w (s.cur.pc - 8) s.cur, run := true }

end Sys2Proof.Machine
end

