-- ==== Sys2Proof/Machine/HostMoves.lean ====
section
/-! DEFINITION. The moves of the second agent, the host, all between cycles (60_exceptions.md R211, 20_memory.md R53,
70_reset_and_hazards.md R220, R226). `run(n)` is `runFor` of Machine/Engine.lean. Assumption log 10. -/

namespace Sys2Proof.Machine

/-- `reset` (70_reset_and_hazards.md R220), on the machine's own platform. The count of free words drawn, which is no
state of the hardware, goes on, so that no word is drawn twice. -/
def hostReset (s : State) : State := { State.resetOn s.platform with freeDraws := s.freeDraws }

/-- `set-register(i, v)`: both snapshots; i = 0 is allowed and sticks (60_exceptions.md R211). An index outside 0..31
is no move (93_implementation_defined.md U4): the type has none. -/
def hostSetRegister (i : Five) (v : Word) (s : State) : State :=
  { s with cur := s.cur.setReg i v, nxt := s.nxt.setReg i v }

/-- `set-HI(v)`: both snapshots. -/
def hostSetHi (v : Word) (s : State) : State := { s with cur := { s.cur with hi := v }, nxt := { s.nxt with hi := v } }

/-- `set-LO(v)`: both snapshots. -/
def hostSetLo (v : Word) (s : State) : State := { s with cur := { s.cur with lo := v }, nxt := { s.nxt with lo := v } }

/-- `write32` of each word from an address on, at 4-byte strides. -/
def loadFrom : Word → List Word → State → Result
  | _, [], s => .next s
  | a, w :: ws, s => andThen (s.memWrite a w) (loadFrom (a + 4) ws)

/-- `load_words(ws)`, from `TEXT_BASE` on (20_memory.md R53). -/
def hostLoadWords (ws : List Word) (s : State) : Result := loadFrom s.platform.textBase ws s

/-- The boot sequence: reset, then the program (70_reset_and_hazards.md R226). -/
def hostBoot (ws : List Word) (s : State) : Result := hostLoadWords ws (hostReset s)

/-- What `register-dump` shows (60_exceptions.md R208, R211). -/
structure RegisterDump where
  instrCount : Nat
  cycleCount : Nat
  pc         : Word
  regs       : Vector Word 32
  hi         : Word
  lo         : Word
  deriving DecidableEq, Repr

/-- `register-dump`: a look at the current snapshot and the counters, with no effect. -/
def hostRegisterDump (s : State) : RegisterDump :=
  ⟨s.instrCount, s.cycleCount, s.cur.pc, s.cur.regs, s.cur.hi, s.cur.lo⟩

/-- `n` words of memory from an address on, at 4-byte steps. -/
def wordsFrom (s : State) : Nat → Word → Except Fault (List Word)
  | 0, _ => .ok []
  | n + 1, a =>
    match s.memRead a with
    | .ok w =>
      match wordsFrom s n (a + 4) with
      | .ok ws => .ok (w :: ws)
      | .error f => .error f
    | .error f => .error f

/-- `memory-dump(start, stop)`: `read32` at each 4-byte step from start to stop inclusive, with no effect
(60_exceptions.md R211). -/
def hostMemoryDump (start stop : Word) (s : State) : Except Fault (List Word) :=
  if start.toNat ≤ stop.toNat then wordsFrom s ((stop.toNat - start.toNat) / 4 + 1) start else .ok []

/-- What `show-pipeline-state` shows (60_exceptions.md R211, R212). -/
structure PipelineDump where
  ifId  : IfId
  idEx  : IdEx
  exMem : ExMem
  memWb : MemWb
  deriving DecidableEq, Repr

/-- `show-pipeline-state`: a look at all fields of the four latches, with no effect. -/
def hostShowPipeline (s : State) : PipelineDump := ⟨s.ifId, s.idEx, s.exMem, s.memWb⟩

end Sys2Proof.Machine
end

