-- ==== Sys2Proof/Machine/Step.lean ====
section
/-! DEFINITION. One step of the machine: one clock edge. -/

namespace Sys2Proof.Machine

/-- The step (00_scope.md R6, R8). -/
def step (s : State) : Host.Outcome State Fault Refusal := clockEdge s

/-- `s` with the word `w` where the next step executes it. A word is fetched two cycles before it executes
(70_reset_and_hazards.md R230), so the word stands in `ID_EX`, as ID leaves it there. Assumption log 4. -/
def State.withFetchWord (s : State) (nbits w : Nat) : State := s.withWordInExecute (BitVec.ofNat 32 (w % 2 ^ nbits))

end Sys2Proof.Machine
end

