-- ==== Sys2Proof/Safety.lean ====
section
/-! DEFINITION. What counts as a safe run, the invariant of the machine, and the vocabulary of the claims: the classes of
40_pipeline.md as tables and as predicates on what `exec` does. -/

namespace Sys2Proof

/-- An access at `a` does not start inside a region and end beyond it (20_memory.md R45). An unmapped address has
no overrun. -/
def Platform.noOverrun (p : Platform) (a : Word) : Prop :=
  ∀ r, p.regionOf a = some r → a.toNat + 3 ≤ r.last.toNat

/-- Every listed byte lies in a region: memory has no other bytes (10_state.md R26). -/
def Machine.Memory.placed (p : Platform) (m : Machine.Memory) : Prop :=
  ∀ c ∈ m, ∃ r ∈ p.regions, r.first.toNat ≤ c.1 ∧ c.1 ≤ r.last.toNat

end Sys2Proof

namespace Sys2Proof.Machine

/-! The class tables of 40_pipeline.md, by number. -/

/-- The classes of EX (40_pipeline.md R96). -/
inductive ExClass where
  | compute
  | hilo
  | halt
  | inert
  | unrec
  deriving DecidableEq, Repr

/-- The table of 40_pipeline.md R97. -/
def exClass (op fn : Six) (rt : Five) : ExClass :=
  if op = 0x00 then
    if fn ∈ [0x00, 0x02, 0x03, 0x10, 0x12, 0x20, 0x21, 0x22, 0x23, 0x24, 0x25, 0x26, 0x27, 0x2A] then .compute
    else if fn ∈ [0x11, 0x13, 0x18, 0x19, 0x1A, 0x1B] then .hilo
    else if fn = 0x0C then .halt
    else if fn ∈ [0x08, 0x09] then .inert
    else .unrec
  else if op = 0x01 then if rt ∈ [0x00, 0x01] then .inert else .unrec
  else if op ∈ [0x08, 0x09, 0x0A, 0x0C, 0x0D, 0x0E, 0x0F, 0x20, 0x21, 0x23, 0x28, 0x29, 0x2B] then .compute
  else if op ∈ [0x02, 0x03, 0x04, 0x05, 0x06, 0x07] then .inert
  else .unrec

/-- The classes of MEM (40_pipeline.md R99). -/
inductive MemClass where
  | pass
  | loadb
  | loadh
  | loadw
  | storeb
  | storeh
  | storew
  | unrec
  deriving DecidableEq, Repr

/-- The table of 40_pipeline.md R101. -/
def memClass (op : Six) : MemClass :=
  if op ∈ [0x00, 0x08, 0x09, 0x0A, 0x0C, 0x0D, 0x0E, 0x0F] then .pass
  else if op = 0x20 then .loadb
  else if op = 0x21 then .loadh
  else if op = 0x23 then .loadw
  else if op = 0x28 then .storeb
  else if op = 0x29 then .storeh
  else if op = 0x2B then .storew
  else .unrec

/-- How many bytes from the effective address on a class of MEM may change. -/
def MemClass.storedBytes : MemClass → Nat
  | .pass => 0
  | .loadb => 0
  | .loadh => 0
  | .loadw => 0
  | .storeb => 1
  | .storeh => 2
  | .storew => 4
  | .unrec => 0

/-- Whether a class of MEM makes a memory access (40_pipeline.md R99). -/
def MemClass.accesses : MemClass → Bool
  | .pass => false
  | .loadb => true
  | .loadh => true
  | .loadw => true
  | .storeb => true
  | .storeh => true
  | .storew => true
  | .unrec => false

/-- The classes of WB (40_pipeline.md R103). -/
inductive WbClass where
  | writeAlu
  | writeLmd
  | none
  | unrec
  deriving DecidableEq, Repr

/-- The table of 40_pipeline.md R104. -/
def wbClass (op fn : Six) : WbClass :=
  if op = 0x00 then
    if fn ∈ [0x20, 0x21, 0x22, 0x23, 0x24, 0x25, 0x26, 0x27] then .writeAlu else .none
  else if op ∈ [0x08, 0x09, 0x0A, 0x0C, 0x0D, 0x0E] then .writeAlu
  else if op ∈ [0x20, 0x21, 0x23] then .writeLmd
  else if op ∈ [0x28, 0x29, 0x2B] then .none
  else .unrec

/-! Safe runs and the invariant. -/

/-- The memory accesses of the next cycle overrun no region: MEM's, if its class makes one, decode's and fetch's. -/
def State.noOverrun (s : State) : Prop :=
  ((memClass s.exMem.opcode).accesses = true → s.platform.noOverrun s.exMem.aluOutput) ∧
  s.platform.noOverrun s.ifId.pc ∧ s.platform.noOverrun s.cur.pc

/-- `n` steps are taken from `s` with no stop: a safe run. -/
def safeFor : Nat → State → Prop
  | 0, _ => True
  | n + 1, s => ∃ t, step s = .next t ∧ safeFor n t

/-- Each latch's opcode, funct and destination are those of the word it carries (40_pipeline.md R94, R95, R98). -/
def State.coherent (s : State) : Prop :=
  s.idEx.fields = fieldsOf s.idEx.ir ∧
  s.exMem.opcode = (fieldsOf s.exMem.ir).opcode ∧ s.exMem.funct = (fieldsOf s.exMem.ir).funct ∧
  s.exMem.dest = (if s.exMem.opcode = 0 then (fieldsOf s.exMem.ir).rd else (fieldsOf s.exMem.ir).rt) ∧
  s.memWb.opcode = (fieldsOf s.memWb.ir).opcode ∧ s.memWb.funct = (fieldsOf s.memWb.ir).funct ∧
  s.memWb.dest = (if s.memWb.opcode = 0 then (fieldsOf s.memWb.ir).rd else (fieldsOf s.memWb.ir).rt)

/-- The addresses the latches carry trail the PC (10_state.md R15, R16). -/
def State.trail (s : State) : Prop :=
  s.cur.pc = s.platform.textBase + BitVec.ofNat 32 (4 * s.cycleCount) ∧
  (1 ≤ s.cycleCount → s.ifId.pc = s.cur.pc - 4) ∧ (2 ≤ s.cycleCount → s.idEx.pc = s.cur.pc - 8) ∧
  (3 ≤ s.cycleCount → s.exMem.pc = s.cur.pc - 12) ∧ (4 ≤ s.cycleCount → s.memWb.pc = s.cur.pc - 16)

/-- The invariant at every cycle boundary: the snapshots agree (10_state.md R11), memory is canonical and lies in the
regions (20_memory.md R41), the latches are coherent, no more instructions are counted than cycles. -/
structure State.Inv (s : State) : Prop where
  snapshots : s.cur = s.nxt
  canonical : s.mem.wf
  placed    : Memory.placed s.platform s.mem
  coherent  : s.coherent
  counted   : s.instrCount ≤ s.cycleCount
  stage     : s.stage = .wb

/-- The destination the execute stage picks (40_pipeline.md R95). -/
def IdEx.destination (l : IdEx) : Five := if l.opcode = 0 then l.rd else l.rt

/-! What a stage leaves alone, and what every word does in it. -/

/-- The pass-through part of EX (40_pipeline.md R95). -/
structure ExPassed (s t : State) : Prop where
  ir     : t.exMem.ir = s.idEx.ir
  pc     : t.exMem.pc = s.idEx.pc
  opcode : t.exMem.opcode = s.idEx.opcode
  funct  : t.exMem.funct = s.idEx.funct
  a      : t.exMem.a = s.idEx.a
  b      : t.exMem.b = s.idEx.b
  dest   : t.exMem.dest = (if s.idEx.opcode = 0 then s.idEx.rd else s.idEx.rt)

/-- What no word changes in EX: everything but `EX_MEM`, HI and LO of `NXT`, RUN and the report. -/
structure ExKeeps (s t : State) : Prop where
  cur        : t.cur = s.cur
  regs       : ∀ r, t.nxt.reg r = s.nxt.reg r
  pc         : t.nxt.pc = s.nxt.pc
  ifId       : t.ifId = s.ifId
  idEx       : t.idEx = s.idEx
  memWb      : t.memWb = s.memWb
  cycleCount : t.cycleCount = s.cycleCount
  instrCount : t.instrCount = s.instrCount
  bytes      : ∀ n, t.byteAt n = s.byteAt n
  platform   : t.platform = s.platform
  reportMem  : t.reports.mem = s.reports.mem
  reportWb   : t.reports.wb = s.reports.wb

/-- EX leaves HI and LO alone. -/
def KeepsHiLo (s t : State) : Prop := t.nxt.hi = s.nxt.hi ∧ t.nxt.lo = s.nxt.lo

/-- EX, class HILO: from every state that meets `pre`, HI and LO of `NXT` end as `post` says, and nothing else changes:
`EX_MEM.ALUOutput` is unmodified, there is no report. -/
def SetsHiLo (i : Instr) (pre : State → Prop) (post : State → Word → Word → Prop) : Prop :=
  ∀ s, s.stage = .ex → pre s →
    ∃ t, exec i s = .next t ∧ post s t.nxt.hi t.nxt.lo ∧ t.exMem.aluOutput = s.exMem.aluOutput ∧
      ExPassed s t ∧ ExKeeps s t ∧ t.run = s.run ∧ t.reports.ex = s.reports.ex

/-- The pass-through part of MEM (40_pipeline.md R98). -/
structure MemPassed (s t : State) : Prop where
  ir     : t.memWb.ir = s.exMem.ir
  pc     : t.memWb.pc = s.exMem.pc
  opcode : t.memWb.opcode = s.exMem.opcode
  funct  : t.memWb.funct = s.exMem.funct
  dest   : t.memWb.dest = s.exMem.dest

/-- What no word changes in MEM: everything but `MEM_WB`, memory and the report. -/
structure MemKeeps (s t : State) : Prop where
  cur        : t.cur = s.cur
  nxt        : t.nxt = s.nxt
  ifId       : t.ifId = s.ifId
  idEx       : t.idEx = s.idEx
  exMem      : t.exMem = s.exMem
  run        : t.run = s.run
  cycleCount : t.cycleCount = s.cycleCount
  instrCount : t.instrCount = s.instrCount
  platform   : t.platform = s.platform
  reportEx   : t.reports.ex = s.reports.ex
  reportWb   : t.reports.wb = s.reports.wb

/-- What every word does in WB beside its register write and report: it is counted unless it is zero (40_pipeline.md
R105), and everything but the registers of `NXT`, the counter and the report stays. -/
structure WbKeeps (s t : State) : Prop where
  cur        : t.cur = s.cur
  hi         : t.nxt.hi = s.nxt.hi
  lo         : t.nxt.lo = s.nxt.lo
  pc         : t.nxt.pc = s.nxt.pc
  ifId       : t.ifId = s.ifId
  idEx       : t.idEx = s.idEx
  exMem      : t.exMem = s.exMem
  memWb      : t.memWb = s.memWb
  run        : t.run = s.run
  counted    : t.instrCount = s.instrCount + (if s.memWb.ir = 0 then 0 else 1)
  cycleCount : t.cycleCount = s.cycleCount
  bytes      : ∀ n, t.byteAt n = s.byteAt n
  platform   : t.platform = s.platform
  reportEx   : t.reports.ex = s.reports.ex
  reportMem  : t.reports.mem = s.reports.mem

/-! What a register move of the host leaves alone, in both snapshots (60_exceptions.md R211). -/

/-- The general registers of both snapshots are as before. -/
def KeepsRegisters (s t : State) : Prop := ∀ r, t.cur.reg r = s.cur.reg r ∧ t.nxt.reg r = s.nxt.reg r

/-- HI of both snapshots is as before. -/
def KeepsHi (s t : State) : Prop := t.cur.hi = s.cur.hi ∧ t.nxt.hi = s.nxt.hi

/-- LO of both snapshots is as before. -/
def KeepsLo (s t : State) : Prop := t.cur.lo = s.cur.lo ∧ t.nxt.lo = s.nxt.lo

/-- What set-register, set-HI and set-LO never touch: all but the registers, HI and LO of the snapshots. -/
structure HostKeeps (s t : State) : Prop where
  curPc      : t.cur.pc = s.cur.pc
  nxtPc      : t.nxt.pc = s.nxt.pc
  ifId       : t.ifId = s.ifId
  idEx       : t.idEx = s.idEx
  exMem      : t.exMem = s.exMem
  memWb      : t.memWb = s.memWb
  run        : t.run = s.run
  cycleCount : t.cycleCount = s.cycleCount
  instrCount : t.instrCount = s.instrCount
  bytes      : ∀ n, t.byteAt n = s.byteAt n
  platform   : t.platform = s.platform
  reports    : t.reports = s.reports

/-! The classes as what `exec i` does in a stage, on every state in which `i` is in that stage. -/

/-- EX, class COMPUTE: `EX_MEM.ALUOutput <- v` and nothing else; `EX_MEM.dest` is `d`. -/
def Computes (i : Instr) (d : Five) (v : State → Word) : Prop :=
  ∀ s, s.stage = .ex → s.idEx.instr = .ok i →
    ∃ t, exec i s = .next t ∧ t.exMem.aluOutput = v s ∧ t.exMem.dest = d ∧
      ExPassed s t ∧ ExKeeps s t ∧ KeepsHiLo s t ∧ t.run = s.run ∧ t.reports.ex = s.reports.ex

/-- EX, class INERT: nothing, and no report. -/
def InertInEx (i : Instr) : Prop :=
  ∀ s, s.stage = .ex →
    ∃ t, exec i s = .next t ∧ t.exMem.aluOutput = s.exMem.aluOutput ∧
      ExPassed s t ∧ ExKeeps s t ∧ KeepsHiLo s t ∧ t.run = s.run ∧ t.reports.ex = s.reports.ex

/-- MEM, class PASS: `MEM_WB.ALUOutput <- EX_MEM.ALUOutput`, no memory access, no report. -/
def PassesMem (i : Instr) : Prop :=
  ∀ s, s.stage = .mem →
    ∃ t, exec i s = .next t ∧ t.memWb.aluOutput = s.exMem.aluOutput ∧ t.memWb.lmd = s.memWb.lmd ∧
      (∀ n, t.byteAt n = s.byteAt n) ∧ MemPassed s t ∧ MemKeeps s t ∧ t.reports.mem = s.reports.mem

/-- MEM, a load: from every state whose effective address `EX_MEM.ALUOutput` overruns no region, the result fields end as
`post` says and memory is not changed; from every other state, the model's fault. -/
def LoadsInMem (i : Instr) (post : State → MemWb → Prop) : Prop :=
  ∀ s, s.stage = .mem →
    (s.platform.noOverrun s.exMem.aluOutput →
      ∃ t, exec i s = .next t ∧ post s t.memWb ∧
        (∀ n, t.byteAt n = s.byteAt n) ∧ MemPassed s t ∧ MemKeeps s t ∧ t.reports.mem = s.reports.mem) ∧
    (¬ s.platform.noOverrun s.exMem.aluOutput → exec i s = .fault .regionOverrun)

/-- MEM, a store of the low `n` bytes of `EX_MEM.B` at the effective address `EX_MEM.ALUOutput`: byte `k` of the value at
the address plus `k`, every other byte as before, all bytes as before when the address is unmapped; from a state whose
effective address overruns its region, the model's fault. -/
def StoresInMem (i : Instr) (n : Nat) : Prop :=
  ∀ s, s.stage = .mem →
    (s.mem.wf → s.platform.noOverrun s.exMem.aluOutput →
      ∃ t, exec i s = .next t ∧
        (∀ r, s.platform.regionOf s.exMem.aluOutput = some r →
          (∀ k, k < n → t.byteAt (s.exMem.aluOutput.toNat + k) = BitVec.ofNat 8 (s.exMem.b.toNat / 256 ^ k)) ∧
          (∀ a, a < s.exMem.aluOutput.toNat ∨ s.exMem.aluOutput.toNat + n ≤ a → t.byteAt a = s.byteAt a)) ∧
        (s.platform.regionOf s.exMem.aluOutput = none → ∀ a, t.byteAt a = s.byteAt a) ∧
        t.memWb.aluOutput = s.exMem.aluOutput ∧ t.memWb.lmd = s.memWb.lmd ∧
        MemPassed s t ∧ MemKeeps s t ∧ t.reports.mem = s.reports.mem) ∧
    (¬ s.platform.noOverrun s.exMem.aluOutput → exec i s = .fault .regionOverrun)

/-- MEM, class UNREC: a report, no memory side effect, the result fields unmodified. -/
def ReportedByMem (i : Instr) : Prop :=
  ∀ s, s.stage = .mem →
    ∃ t, exec i s = .next t ∧ t.memWb.aluOutput = s.memWb.aluOutput ∧ t.memWb.lmd = s.memWb.lmd ∧
      (∀ n, t.byteAt n = s.byteAt n) ∧ MemPassed s t ∧ MemKeeps s t ∧ t.reports.mem = true

/-- WB, with `v` written to the register `MEM_WB.dest` of `NXT`, register 0 like any other, and no report. -/
def WritesBack (i : Instr) (v : State → Word) : Prop :=
  ∀ s, s.stage = .wb →
    ∃ t, exec i s = .next t ∧ t.nxt.reg s.memWb.dest = v s ∧
      (∀ r, r ≠ s.memWb.dest → t.nxt.reg r = s.nxt.reg r) ∧ WbKeeps s t ∧ t.reports.wb = s.reports.wb

/-- WB, class NONE: no register is written, no report. -/
def WritesNoRegister (i : Instr) : Prop :=
  ∀ s, s.stage = .wb →
    ∃ t, exec i s = .next t ∧ (∀ r, t.nxt.reg r = s.nxt.reg r) ∧ WbKeeps s t ∧ t.reports.wb = s.reports.wb

/-- WB, class UNREC: no register is written, a report. -/
def ReportedByWb (i : Instr) : Prop :=
  ∀ s, s.stage = .wb →
    ∃ t, exec i s = .next t ∧ (∀ r, t.nxt.reg r = s.nxt.reg r) ∧ WbKeeps s t ∧ t.reports.wb = true

end Sys2Proof.Machine
end

