-- ==== Sys2Proof/Certificates/Slice0/Obligations.lean ====
section
/-! DEFINITION. The statements for the provers. Each docstring names the rule of spec/ it formalises; the classes and
frames it is written in stand in Sys2Proof/Safety.lean. -/

open Sys2Proof Sys2Proof.Machine

/-- `byte | 0xFFFFFF00` when the top bit is set, else the unsigned byte (45_load_store.md R165). -/
def Sys2Proof.extendedByte (b : Byte) : Word :=
  if b.msb then b.zeroExtend 32 ||| 0xFFFFFF00 else b.zeroExtend 32

/-- `half | 0xFFFF0000` when the top bit is set, else the unsigned half-word (45_load_store.md R166). -/
def Sys2Proof.extendedHalf (h : Half) : Word :=
  if h.msb then h.zeroExtend 32 ||| 0xFFFF0000 else h.zeroExtend 32

/-- The table bits of J, JAL, BEQ, BNE, BLEZ, BGTZ, BLTZ, BGEZ (spec/opcode_table.json). -/
def Sys2Proof.branchRows : List Word :=
  [0x08000000, 0x0C000000, 0x10000000, 0x14000000, 0x18000000, 0x1C000000, 0x04000000, 0x04010000]

/-- 30_encoding.md R70, R71, R74: no bit of a recognised word is dropped, the ignored fields are kept. -/
def Obligations.DecodeEncodeAreInverse : Prop :=
  (∀ (i : Instr) (rest : List Byte),
    decode (encode i) = .ok i ∧ decodeBytes (encodeBytes i ++ rest) = .ok (i, rest)) ∧
  (∀ (w : Word) (i : Instr), decode w = .ok i → encode i = w)

/-- 30_encoding.md R74, 92_eei_decisions.md D27: which bits select. -/
def Obligations.TableRowsSelect : Prop :=
  (∀ (w : Word) (i : Instr), decode w = .ok i → w &&& i.row.mask = i.row.bits) ∧
  (∀ (w : Word) (j : Instr), w &&& j.row.mask = j.row.bits → ∃ i, decode w = .ok i ∧ i.row = j.row)

/-- Words of 30_encoding.md R75 and of the examples of files 41 to 47, a sanity statement. -/
def Obligations.WrittenWordsDecode : Prop :=
  encode (.addiu 0 1 5) = 0x24010005 ∧ encodeBytes (.addiu 0 1 5) = [0x05, 0x00, 0x01, 0x24] ∧
  decodeBytes [0x05, 0x00, 0x01, 0x24] = .ok (.addiu 0 1 5, []) ∧
  decode 0x00011100 = .ok (.sll 0 1 2 4) ∧ decode 0x0022001A = .ok (.div 1 2 0 0) ∧
  decode 0x00221823 = .ok (.subu 1 2 3 0) ∧ decode 0x2822FFFF = .ok (.slti 1 2 0xFFFF) ∧
  decode 0x80220004 = .ok (.lb 1 2 4) ∧ decode 0xAC22FFFC = .ok (.sw 1 2 0xFFFC) ∧
  decode 0x10220003 = .ok (.beq 1 2 3) ∧ decode 0x04210003 = .ok (.bgez 1 3) ∧
  decode 0x08100000 = .ok (.j 0x100000) ∧ decode 0x0000000C = .ok (.syscall 0) ∧
  decode 0x0000000D = .error (.funct 0x0D) ∧ decode 0x04310003 = .error (.regimm 0x11) ∧
  decode 0x90220000 = .error (.opcode 0x24)

/-- 20_memory.md R42. -/
def Obligations.UnmappedAccess : Prop :=
  ∀ (p : Platform) (m : Memory) (a v : Word), p.regionOf a = none →
    read32 p m a = .ok 0 ∧ write32 p m a v = .ok m ∧
    ∀ s : State, s.platform = p → s.memWrite a v = .next s

/-- 20_memory.md R43, and R42 for an unmapped address. The last clause is 20_memory.md R45, where the source defines nothing and the
fault is the decision D20 of the spec (assumption log 8). -/
def Obligations.ReadIsLittleEndian : Prop :=
  ∀ (p : Platform) (m : Memory) (a : Word),
    (p.regionOf a = none → read32 p m a = .ok 0) ∧
    (∀ r, p.regionOf a = some r → a.toNat + 3 ≤ r.last.toNat →
      ∃ w, read32 p m a = .ok w ∧
        w.toNat = (m.byteAt a.toNat).toNat + 2 ^ 8 * (m.byteAt (a.toNat + 1)).toNat +
          2 ^ 16 * (m.byteAt (a.toNat + 2)).toNat + 2 ^ 24 * (m.byteAt (a.toNat + 3)).toNat) ∧
    (∀ r, p.regionOf a = some r → r.last.toNat < a.toNat + 3 → read32 p m a = .error .regionOverrun)

/-- 20_memory.md R44, and R42 for an unmapped address. The last clause is 20_memory.md R45, where the source defines nothing and the
fault is the decision D20 of the spec (assumption log 8). -/
def Obligations.WriteIsLittleEndian : Prop :=
  ∀ (p : Platform) (m : Memory) (a v : Word), m.wf →
    (p.regionOf a = none → write32 p m a v = .ok m) ∧
    (∀ r, p.regionOf a = some r → a.toNat + 3 ≤ r.last.toNat →
      ∃ m', write32 p m a v = .ok m' ∧
        (∀ k, k < 4 → m'.byteAt (a.toNat + k) = BitVec.ofNat 8 (v.toNat / 256 ^ k)) ∧
        (∀ n, n < a.toNat ∨ a.toNat + 4 ≤ n → m'.byteAt n = m.byteAt n)) ∧
    (∀ r, p.regionOf a = some r → r.last.toNat < a.toNat + 3 → write32 p m a v = .error .regionOverrun)

/-- 20_memory.md R45; the fault is the decision D20 of the spec. -/
def Obligations.OverrunNeverAligned : Prop :=
  (∀ (p : Platform) (m : Memory) (a v : Word),
    (p.noOverrun a → (∃ w, read32 p m a = .ok w) ∧ ∃ m', write32 p m a v = .ok m') ∧
    (¬ p.noOverrun a → read32 p m a = .error .regionOverrun ∧ write32 p m a v = .error .regionOverrun)) ∧
  (∀ (p : Platform) (a : Word),
    (∀ r ∈ p.regions, r.first.toNat % 4 = 0 ∧ (r.last.toNat + 1 - r.first.toNat) % 4 = 0) →
    a.toNat % 4 = 0 → p.noOverrun a)

/-- 20_memory.md R48, which the spec derives from R42, R43, R44. -/
def Obligations.MemoryRoundTrip : Prop :=
  ∀ (p : Platform) (m : Memory) (a v : Word), m.wf →
    (p.noOverrun a → ∀ r, p.regionOf a = some r →
      ∃ m', write32 p m a v = .ok m' ∧ read32 p m' a = .ok v) ∧
    (p.regionOf a = none → ∃ m', write32 p m a v = .ok m' ∧ read32 p m' a = .ok 0)

/-- 20_memory.md R53. -/
def Obligations.LoadWordsFillsText : Prop :=
  (∀ s, hostLoadWords [] s = .next s) ∧
  (∀ (ws : List Word) (w : Word) (s : State), hostLoadWords (ws ++ [w]) s =
    andThen (hostLoadWords ws s) fun t => t.memWrite (s.platform.textBase + BitVec.ofNat 32 (4 * ws.length)) w) ∧
  (∀ (ws : List Word) (s : State) (r : Region), s.mem.wf →
    (∀ i, i < ws.length → s.platform.regionOf (s.platform.textBase + BitVec.ofNat 32 (4 * i)) = some r) →
    s.platform.textBase.toNat + 4 * ws.length ≤ r.last.toNat + 1 →
    ∃ t, hostLoadWords ws s = .next t ∧ t = { s with mem := t.mem } ∧
      (∀ i w, ws[i]? = some w → t.memRead (s.platform.textBase + BitVec.ofNat 32 (4 * i)) = .ok w) ∧
      (∀ n, n < s.platform.textBase.toNat ∨ s.platform.textBase.toNat + 4 * ws.length ≤ n → t.byteAt n = s.byteAt n))

/-- 40_pipeline.md R90: one step is one cycle. -/
def Obligations.StepRunsTheLatchedInstructions : Prop :=
  ∀ (s : State) (iw im ie : Instr), s.run = true →
    s.memWb.instr = .ok iw → s.exMem.instr = .ok im → s.idEx.instr = .ok ie →
    step s =
      andThen (exec iw ((clearReports s).atStage .wb)) fun s₁ =>
      andThen (exec im (s₁.atStage .mem)) fun s₂ =>
      andThen (exec ie (s₂.atStage .ex)) fun s₃ =>
      andThen (idStage s₃) fun s₄ =>
      andThen (ifStage s₄) fun s₅ => .next (commit s₅)

/-- The placement of a word is the choice of the model (assumption log 4); the latch is that of 40_pipeline.md R94, the cycle that of
R90. -/
def Obligations.FetchWordRunsNext : Prop :=
  ∀ (s t : State) (w : Word) (i : Instr), decode w = .ok i → t = s.withFetchWord 32 w.toNat →
    t = { s with idEx := t.idEx, run := true } ∧ t.idEx.instr = .ok i ∧ t.idEx.ir = w ∧
    t.idEx.a = s.cur.reg (fieldsOf w).rs ∧ t.idEx.b = s.cur.reg (fieldsOf w).rt ∧
    exEngine t = exec i (t.atStage .ex) ∧
    step t =
      andThen (wbEngine (clearReports t)) fun s₁ =>
      andThen (memEngine s₁) fun s₂ =>
      andThen (exec i (s₂.atStage .ex)) fun s₃ =>
      andThen (idStage s₃) fun s₄ =>
      andThen (ifStage s₄) fun s₅ => .next (commit s₅)

/-- 40_pipeline.md R92. -/
def Obligations.CommitCopiesNext : Prop :=
  (∀ s, (commit s).cur = s.nxt ∧ (commit s).nxt = s.nxt) ∧
  (∀ s t, (wbEngine s = .next t ∨ memEngine s = .next t ∨ exEngine s = .next t ∨ idStage s = .next t ∨
    ifStage s = .next t) → t.cur = s.cur) ∧
  (∀ s t, s.run = true → step s = .next t → t.cur = t.nxt)

/-- 40_pipeline.md R93; what IF_ID.PC holds and the wrap are the decisions D2, D21 of the spec. -/
def Obligations.FetchAdvancesSequentially : Prop :=
  ∀ (s : State) (w : Word), s.memRead s.cur.pc = .ok w →
    ∃ t, ifStage s = .next t ∧ t.ifId.ir = w ∧ t.ifId.pc = s.cur.pc ∧
      t.nxt.pc.toNat = (s.cur.pc.toNat + 4) % 2 ^ 32 ∧
      t = { s with ifId := t.ifId, nxt := { s.nxt with pc := t.nxt.pc } }

/-- 30_encoding.md R71 for the eight fields; the latch, its A and B and the second read are 40_pipeline.md R94, whose IR, PC, rs and rt
are the decisions D6, D7 of the spec (assumption log 9). -/
def Obligations.DecodeExtractsAllFields : Prop :=
  ∀ (s : State) (w : Word), s.memRead s.ifId.pc = .ok w →
    ∃ t, idStage s = .next t ∧ t.idEx.ir = w ∧ t.idEx.pc = s.ifId.pc ∧
      t.idEx.opcode.toNat = w.toNat / 2 ^ 26 ∧ t.idEx.rs.toNat = w.toNat / 2 ^ 21 % 2 ^ 5 ∧
      t.idEx.rt.toNat = w.toNat / 2 ^ 16 % 2 ^ 5 ∧ t.idEx.rd.toNat = w.toNat / 2 ^ 11 % 2 ^ 5 ∧
      t.idEx.shamt.toNat = w.toNat / 2 ^ 6 % 2 ^ 5 ∧ t.idEx.funct.toNat = w.toNat % 2 ^ 6 ∧
      t.idEx.imm.toNat = w.toNat % 2 ^ 16 ∧ t.idEx.target.toNat = w.toNat % 2 ^ 26 ∧
      t.idEx.a = s.cur.reg t.idEx.rs ∧ t.idEx.b = s.cur.reg t.idEx.rt ∧ t = { s with idEx := t.idEx } ∧
      (∀ x, ∃ u, idStage { s with ifId := ⟨x, s.ifId.pc⟩ } = .next u ∧ u.idEx = t.idEx)

/-- 40_pipeline.md R95, whose fields and destination are the decisions D6, D8, D9 of the spec. -/
def Obligations.ExecutePassesItsLatchOn : Prop :=
  ∀ s, ∃ t, exEngine s = .next t ∧ ExPassed s t ∧ ExKeeps s t

/-- 40_pipeline.md R96, R97, the last clause the conclusion R96 derives. -/
def Obligations.ExecuteFollowsItsClassTable : Prop :=
  (∀ s, ∃ t, exEngine s = .next t ∧
    (exClass s.idEx.opcode s.idEx.funct s.idEx.rt ≠ .compute → t.exMem.aluOutput = s.exMem.aluOutput) ∧
    (exClass s.idEx.opcode s.idEx.funct s.idEx.rt ≠ .hilo → KeepsHiLo s t) ∧
    t.run = (s.run && !(exClass s.idEx.opcode s.idEx.funct s.idEx.rt == .halt && s.cur.reg 2 == 0xA)) ∧
    t.reports.ex = (s.reports.ex || exClass s.idEx.opcode s.idEx.funct s.idEx.rt == .unrec)) ∧
  (∀ w, (∃ q, decode w = .error q) ↔
    exClass (fieldsOf w).opcode (fieldsOf w).funct (fieldsOf w).rt = .unrec) ∧
  (∀ op fn rt, (memClass op).accesses = true ∨ wbClass op fn = .writeAlu → exClass op fn rt = .compute)

/-- 40_pipeline.md R98 to R101 (the passing of ALUOutput and the class of the immediates are the decisions D10, D11 of the spec). -/
def Obligations.MemoryStageFollowsItsClassTable : Prop :=
  (∀ s t, memEngine s = .next t → MemPassed s t ∧ MemKeeps s t ∧
    t.reports.mem = (s.reports.mem || memClass s.exMem.opcode == .unrec)) ∧
  (∀ s, memClass s.exMem.opcode = .pass → ∃ t, memEngine s = .next t ∧ t.mem = s.mem ∧
    t.memWb.aluOutput = s.exMem.aluOutput ∧ t.memWb.lmd = s.memWb.lmd) ∧
  (∀ s, memClass s.exMem.opcode = .unrec → ∃ t, memEngine s = .next t ∧ t.mem = s.mem ∧
    t.memWb.aluOutput = s.memWb.aluOutput ∧ t.memWb.lmd = s.memWb.lmd) ∧
  (∀ s w, s.memRead s.exMem.aluOutput = .ok w →
    (memClass s.exMem.opcode = .loadb → ∃ t, memEngine s = .next t ∧ t.mem = s.mem ∧
      t.memWb.aluOutput = s.exMem.aluOutput ∧ t.memWb.lmd.toInt = (w.extractLsb' 0 8).toInt) ∧
    (memClass s.exMem.opcode = .loadh → ∃ t, memEngine s = .next t ∧ t.mem = s.mem ∧
      t.memWb.aluOutput = s.exMem.aluOutput ∧ t.memWb.lmd.toInt = (w.extractLsb' 0 16).toInt) ∧
    (memClass s.exMem.opcode = .loadw → ∃ t, memEngine s = .next t ∧ t.mem = s.mem ∧
      t.memWb.aluOutput = w ∧ t.memWb.lmd = s.memWb.lmd) ∧
    (memClass s.exMem.opcode = .storeb → ∃ t, memEngine s = .next t ∧
      write32 s.platform s.mem s.exMem.aluOutput (w.extractLsb' 8 24 ++ s.exMem.b.extractLsb' 0 8) = .ok t.mem ∧
      t.memWb.aluOutput = s.exMem.aluOutput ∧ t.memWb.lmd = s.memWb.lmd) ∧
    (memClass s.exMem.opcode = .storeh → ∃ t, memEngine s = .next t ∧
      write32 s.platform s.mem s.exMem.aluOutput (w.extractLsb' 16 16 ++ s.exMem.b.extractLsb' 0 16) = .ok t.mem ∧
      t.memWb.aluOutput = s.exMem.aluOutput ∧ t.memWb.lmd = s.memWb.lmd) ∧
    (memClass s.exMem.opcode = .storew → ∃ t, memEngine s = .next t ∧
      write32 s.platform s.mem s.exMem.aluOutput s.exMem.b = .ok t.mem ∧
      t.memWb.aluOutput = s.exMem.aluOutput ∧ t.memWb.lmd = s.memWb.lmd)) ∧
  (∀ s f, s.memRead s.exMem.aluOutput = .error f → (memClass s.exMem.opcode).accesses = true → memEngine s = .fault f) ∧
  (∀ s t, (wbEngine s = .next t ∨ exEngine s = .next t ∨ idStage s = .next t ∨ ifStage s = .next t) → t.mem = s.mem)

/-- 40_pipeline.md R102 to R104 (the class of LUI is the decision D12 of the spec). -/
def Obligations.WritebackFollowsItsClassTable : Prop :=
  ∀ s, ∃ t, wbEngine s = .next t ∧ WbKeeps s t ∧
    (∀ r, t.nxt.reg r =
      if r = s.memWb.dest ∧ wbClass s.memWb.opcode s.memWb.funct = .writeAlu then s.memWb.aluOutput
      else if r = s.memWb.dest ∧ wbClass s.memWb.opcode s.memWb.funct = .writeLmd then s.memWb.lmd
      else s.nxt.reg r) ∧
    t.reports.wb = (s.reports.wb || wbClass s.memWb.opcode s.memWb.funct == .unrec) ∧
    (commit t).cur = t.nxt

/-- 40_pipeline.md R105, the policy being the decision D17 of the spec. -/
def Obligations.InstructionCounterRule : Prop :=
  ∀ s t, s.run = true → step s = .next t →
    (s.memWb.ir ≠ 0 → t.instrCount = s.instrCount + 1) ∧ (s.memWb.ir = 0 → t.instrCount = s.instrCount)

/-- 10_state.md R24, R25: no instruction reads a counter. -/
def Obligations.CountersDoNotInterfere : Prop :=
  ∀ s t c k, s.run = true → step s = .next t →
    step { s with cycleCount := c, instrCount := k } =
      .next { t with cycleCount := c + 1, instrCount := k + (if s.memWb.ir = 0 then 0 else 1) }

/-- 10_state.md R19: decode uses the PC only and never IR. -/
def Obligations.FetchedWordIsNeverUsed : Prop :=
  ∀ s x, s.run = true → step { s with ifId := { s.ifId with ir := x } } = step s

/-- 10_state.md R16, R24 (no width of the counter, the wrap of the PC: decisions D18, D21 of the spec). -/
def Obligations.PcAndCycleAdvance : Prop :=
  ∀ s t, s.run = true → step s = .next t →
    t.cur.pc.toNat = (s.cur.pc.toNat + 4) % 2 ^ 32 ∧ t.cycleCount = s.cycleCount + 1

/-- 60_exceptions.md R210; that the edge is a step to the same state is the model's choice (assumption log 2). -/
def Obligations.HaltedCoreKeepsItsState : Prop :=
  ∀ s, s.run = false →
    step s = .next s ∧ (∀ n, runFor n s = .next s) ∧ (hostReset s).run = true

/-- 40_pipeline.md R106. -/
def Obligations.RunStopsAtTheHalt : Prop :=
  (∀ n s t, runFor n s = .next t →
    t.cycleCount ≤ s.cycleCount + n ∧ (t.run = true → t.cycleCount = s.cycleCount + n)) ∧
  (∀ m n s, runFor (m + n) s = andThen (runFor m s) (runFor n)) ∧
  (∀ s t u, runsToCompletion s t → runsToCompletion s u → t = u)

/-- 60_exceptions.md R200: nothing traps; the one stop is the overrun (20_memory.md R45, decision D20 of the spec). -/
def Obligations.StepEndsUnlessOverrun : Prop :=
  ∀ s, s.run = true →
    (s.noOverrun → ∃ t, step s = .next t) ∧ (¬ s.noOverrun → step s = .fault .regionOverrun)

/-- 47_system.md R191. The pass-through of such a word is the decision D9 of the spec, the count of it D17 (assumption log 9), the form
of the report D22 (assumption log 6). -/
def Obligations.UnrecognisedWordsDoNothing : Prop :=
  (∀ s q, s.idEx.instr = .error q → ∃ t, exEngine s = .next t ∧ t.reports.ex = true ∧
    t.exMem.aluOutput = s.exMem.aluOutput ∧ ExPassed s t ∧ ExKeeps s t ∧ KeepsHiLo s t ∧ t.run = s.run) ∧
  (∀ s q, s.exMem.instr = .error q → ∃ t, memEngine s = .next t ∧
    (s.exMem.opcode = 0 → t.reports.mem = s.reports.mem ∧ t.memWb.aluOutput = s.exMem.aluOutput) ∧
    (s.exMem.opcode ≠ 0 → t.reports.mem = true ∧ t.memWb.aluOutput = s.memWb.aluOutput) ∧
    t.memWb.lmd = s.memWb.lmd ∧ (∀ n, t.byteAt n = s.byteAt n) ∧ MemPassed s t ∧ MemKeeps s t) ∧
  (∀ s q, s.memWb.instr = .error q → ∃ t, wbEngine s = .next t ∧
    (s.memWb.opcode = 0 → t.reports.wb = s.reports.wb) ∧ (s.memWb.opcode ≠ 0 → t.reports.wb = true) ∧
    (∀ r, t.nxt.reg r = s.nxt.reg r) ∧ WbKeeps s t)

/-- 47_system.md R192; `branchRows` lists the table bits of the eight. That MEM passes LUI and WB reports it are the decisions D10, D12
of the spec (assumption log 9), the form of the report is D22 (assumption log 6). -/
def Obligations.PartlyRecognisedInstructions : Prop :=
  ∀ (i : Instr) (s t : State), exec i s = .next t →
    (s.stage = .ex → t.reports = s.reports) ∧
    (s.stage = .mem → t.reports.ex = s.reports.ex ∧ t.reports.wb = s.reports.wb ∧
      t.reports.mem = (s.reports.mem || i.row.bits ∈ branchRows)) ∧
    (s.stage = .wb → t.reports.ex = s.reports.ex ∧ t.reports.mem = s.reports.mem ∧
      t.reports.wb = (s.reports.wb || i.row.bits ∈ branchRows || i.row.bits == 0x3C000000)) ∧
    (∀ q : Reports, ∃ u, exec i { s with reports := q } = .next u ∧ { u with reports := t.reports } = t)

/-- 41_shift.md R130, R131, R132; which operand is shifted is the decision D13 of the spec. -/
def Obligations.ShiftsComputeAndDrop : Prop :=
  ∀ rs rt rd sa : Five,
    (decode (packR 0x00 rs rt rd sa 0x00) = .ok (.sll rs rt rd sa) ∧
      Computes (.sll rs rt rd sa) rd (fun s => BitVec.ofNat 32 (s.idEx.b.toNat * 2 ^ sa.toNat)) ∧
      PassesMem (.sll rs rt rd sa) ∧ WritesNoRegister (.sll rs rt rd sa)) ∧
    (decode (packR 0x00 rs rt rd sa 0x02) = .ok (.srl rs rt rd sa) ∧
      Computes (.srl rs rt rd sa) rd (fun s => BitVec.ofNat 32 (s.idEx.b.toNat / 2 ^ sa.toNat)) ∧
      PassesMem (.srl rs rt rd sa) ∧ WritesNoRegister (.srl rs rt rd sa)) ∧
    (decode (packR 0x00 rs rt rd sa 0x03) = .ok (.sra rs rt rd sa) ∧
      Computes (.sra rs rt rd sa) rd (fun s => BitVec.ofInt 32 (s.idEx.b.toInt / 2 ^ sa.toNat)) ∧
      PassesMem (.sra rs rt rd sa) ∧ WritesNoRegister (.sra rs rt rd sa)) ∧
    (∀ b : Word, BitVec.ofInt 32 (b.toInt / 2 ^ sa.toNat) =
      if b.msb then ~~~((~~~b) >>> sa.toNat) else b >>> sa.toNat)

/-- 42_hilo_muldiv.md R135, R137; the snapshot is the decision D14 of the spec. -/
def Obligations.MoveFromHiLoComputesAndDrops : Prop :=
  ∀ rs rt rd sa : Five,
    (decode (packR 0x00 rs rt rd sa 0x10) = .ok (.mfhi rs rt rd sa) ∧
      Computes (.mfhi rs rt rd sa) rd (fun s => s.cur.hi) ∧
      PassesMem (.mfhi rs rt rd sa) ∧ WritesNoRegister (.mfhi rs rt rd sa)) ∧
    (decode (packR 0x00 rs rt rd sa 0x12) = .ok (.mflo rs rt rd sa) ∧
      Computes (.mflo rs rt rd sa) rd (fun s => s.cur.lo) ∧
      PassesMem (.mflo rs rt rd sa) ∧ WritesNoRegister (.mflo rs rt rd sa))

/-- 42_hilo_muldiv.md R136, R138; source and snapshot are the decisions D13, D14 of the spec. -/
def Obligations.MoveToHiLoWritesOne : Prop :=
  ∀ rs rt rd sa : Five,
    (decode (packR 0x00 rs rt rd sa 0x11) = .ok (.mthi rs rt rd sa) ∧
      SetsHiLo (.mthi rs rt rd sa) (fun _ => True) (fun s hi lo => hi = s.idEx.a ∧ lo = s.nxt.lo) ∧
      PassesMem (.mthi rs rt rd sa) ∧ WritesNoRegister (.mthi rs rt rd sa)) ∧
    (decode (packR 0x00 rs rt rd sa 0x13) = .ok (.mtlo rs rt rd sa) ∧
      SetsHiLo (.mtlo rs rt rd sa) (fun _ => True) (fun s hi lo => lo = s.idEx.a ∧ hi = s.nxt.hi) ∧
      PassesMem (.mtlo rs rt rd sa) ∧ WritesNoRegister (.mtlo rs rt rd sa))

/-- 42_hilo_muldiv.md R139, R140. -/
def Obligations.MultiplyGivesTheProduct : Prop :=
  ∀ rs rt rd sa : Five,
    (decode (packR 0x00 rs rt rd sa 0x18) = .ok (.mult rs rt rd sa) ∧
      SetsHiLo (.mult rs rt rd sa) (fun _ => True)
        (fun s hi lo => (hi ++ lo).toInt = s.idEx.a.toInt * s.idEx.b.toInt) ∧
      PassesMem (.mult rs rt rd sa) ∧ WritesNoRegister (.mult rs rt rd sa)) ∧
    (decode (packR 0x00 rs rt rd sa 0x19) = .ok (.multu rs rt rd sa) ∧
      SetsHiLo (.multu rs rt rd sa) (fun _ => True)
        (fun s hi lo => (hi ++ lo).toNat = s.idEx.a.toNat * s.idEx.b.toNat) ∧
      PassesMem (.multu rs rt rd sa) ∧ WritesNoRegister (.multu rs rt rd sa))

/-- 42_hilo_muldiv.md R141; the open case is filled by two free words (assumption log 3), of which nothing is said. -/
def Obligations.DivideSigned : Prop :=
  ∀ rs rt rd sa : Five,
    decode (packR 0x00 rs rt rd sa 0x1A) = .ok (.div rs rt rd sa) ∧
    SetsHiLo (.div rs rt rd sa) (fun s => s.idEx.b = 0) (fun s hi lo => hi = s.nxt.hi ∧ lo = s.nxt.lo) ∧
    SetsHiLo (.div rs rt rd sa) (fun s => s.idEx.a = 0x80000000 ∧ s.idEx.b = 0xFFFFFFFF) (fun _ _ _ => True) ∧
    SetsHiLo (.div rs rt rd sa)
      (fun s => s.idEx.b ≠ 0 ∧ ¬ (s.idEx.a = 0x80000000 ∧ s.idEx.b = 0xFFFFFFFF))
      (fun s hi lo => lo.toInt = s.idEx.a.toInt.tdiv s.idEx.b.toInt ∧
        hi.toInt = s.idEx.a.toInt - lo.toInt * s.idEx.b.toInt ∧ hi.toInt.natAbs < s.idEx.b.toInt.natAbs ∧
        (hi.toInt ≠ 0 → (hi.toInt < 0 ↔ s.idEx.a.toInt < 0))) ∧
    PassesMem (.div rs rt rd sa) ∧ WritesNoRegister (.div rs rt rd sa)

/-- 42_hilo_muldiv.md R142; the roles of LO and HI are the decision D13 of the spec. -/
def Obligations.DivideUnsigned : Prop :=
  ∀ rs rt rd sa : Five,
    decode (packR 0x00 rs rt rd sa 0x1B) = .ok (.divu rs rt rd sa) ∧
    SetsHiLo (.divu rs rt rd sa) (fun s => s.idEx.b = 0) (fun s hi lo => hi = s.nxt.hi ∧ lo = s.nxt.lo) ∧
    SetsHiLo (.divu rs rt rd sa) (fun s => s.idEx.b ≠ 0)
      (fun s hi lo => s.idEx.a.toNat = s.idEx.b.toNat * lo.toNat + hi.toNat ∧ hi.toNat < s.idEx.b.toNat) ∧
    PassesMem (.divu rs rt rd sa) ∧ WritesNoRegister (.divu rs rt rd sa)

/-- 43_alu_register.md R145 to R152; the operand order of SUB, SUBU is the decision D13 of the spec. -/
def Obligations.RegisterAluWritesRd : Prop :=
  ∀ rs rt rd sa : Five,
    (decode (packR 0x00 rs rt rd sa 0x20) = .ok (.add rs rt rd sa) ∧
      Computes (.add rs rt rd sa) rd (fun s => BitVec.ofNat 32 (s.idEx.a.toNat + s.idEx.b.toNat)) ∧
      PassesMem (.add rs rt rd sa) ∧ WritesBack (.add rs rt rd sa) (fun s => s.memWb.aluOutput)) ∧
    (decode (packR 0x00 rs rt rd sa 0x21) = .ok (.addu rs rt rd sa) ∧
      Computes (.addu rs rt rd sa) rd (fun s => BitVec.ofNat 32 (s.idEx.a.toNat + s.idEx.b.toNat)) ∧
      PassesMem (.addu rs rt rd sa) ∧ WritesBack (.addu rs rt rd sa) (fun s => s.memWb.aluOutput)) ∧
    (decode (packR 0x00 rs rt rd sa 0x22) = .ok (.sub rs rt rd sa) ∧
      Computes (.sub rs rt rd sa) rd (fun s => BitVec.ofInt 32 (s.idEx.a.toNat - s.idEx.b.toNat : Int)) ∧
      PassesMem (.sub rs rt rd sa) ∧ WritesBack (.sub rs rt rd sa) (fun s => s.memWb.aluOutput)) ∧
    (decode (packR 0x00 rs rt rd sa 0x23) = .ok (.subu rs rt rd sa) ∧
      Computes (.subu rs rt rd sa) rd (fun s => BitVec.ofInt 32 (s.idEx.a.toNat - s.idEx.b.toNat : Int)) ∧
      PassesMem (.subu rs rt rd sa) ∧ WritesBack (.subu rs rt rd sa) (fun s => s.memWb.aluOutput)) ∧
    (decode (packR 0x00 rs rt rd sa 0x24) = .ok (.and rs rt rd sa) ∧
      Computes (.and rs rt rd sa) rd (fun s => s.idEx.a &&& s.idEx.b) ∧
      PassesMem (.and rs rt rd sa) ∧ WritesBack (.and rs rt rd sa) (fun s => s.memWb.aluOutput)) ∧
    (decode (packR 0x00 rs rt rd sa 0x25) = .ok (.or rs rt rd sa) ∧
      Computes (.or rs rt rd sa) rd (fun s => s.idEx.a ||| s.idEx.b) ∧
      PassesMem (.or rs rt rd sa) ∧ WritesBack (.or rs rt rd sa) (fun s => s.memWb.aluOutput)) ∧
    (decode (packR 0x00 rs rt rd sa 0x26) = .ok (.xor rs rt rd sa) ∧
      Computes (.xor rs rt rd sa) rd (fun s => s.idEx.a ^^^ s.idEx.b) ∧
      PassesMem (.xor rs rt rd sa) ∧ WritesBack (.xor rs rt rd sa) (fun s => s.memWb.aluOutput)) ∧
    (decode (packR 0x00 rs rt rd sa 0x27) = .ok (.nor rs rt rd sa) ∧
      Computes (.nor rs rt rd sa) rd (fun s => ~~~(s.idEx.a ||| s.idEx.b)) ∧
      PassesMem (.nor rs rt rd sa) ∧ WritesBack (.nor rs rt rd sa) (fun s => s.memWb.aluOutput))

/-- 43_alu_register.md R153; the operand order is the decision D13 of the spec. -/
def Obligations.SetOnLessThanComparesUnsigned : Prop :=
  ∀ rs rt rd sa : Five,
    decode (packR 0x00 rs rt rd sa 0x2A) = .ok (.slt rs rt rd sa) ∧
    Computes (.slt rs rt rd sa) rd (fun s => if s.idEx.a.toNat < s.idEx.b.toNat then 1 else 0) ∧
    PassesMem (.slt rs rt rd sa) ∧ WritesNoRegister (.slt rs rt rd sa)

/-- 44_alu_immediate.md R155 to R157; widening and signed compare are the decision D13 of the spec. -/
def Obligations.ImmediateArithmeticWritesRt : Prop :=
  ∀ (rs rt : Five) (imm : Half),
    (decode (packI 0x08 rs rt imm) = .ok (.addi rs rt imm) ∧
      Computes (.addi rs rt imm) rt (fun s => BitVec.ofInt 32 (s.idEx.a.toInt + imm.toInt)) ∧
      PassesMem (.addi rs rt imm) ∧ WritesBack (.addi rs rt imm) (fun s => s.memWb.aluOutput)) ∧
    (decode (packI 0x09 rs rt imm) = .ok (.addiu rs rt imm) ∧
      Computes (.addiu rs rt imm) rt (fun s => BitVec.ofInt 32 (s.idEx.a.toInt + imm.toInt)) ∧
      PassesMem (.addiu rs rt imm) ∧ WritesBack (.addiu rs rt imm) (fun s => s.memWb.aluOutput)) ∧
    (decode (packI 0x0A rs rt imm) = .ok (.slti rs rt imm) ∧
      Computes (.slti rs rt imm) rt (fun s => if s.idEx.a.toInt < imm.toInt then 1 else 0) ∧
      PassesMem (.slti rs rt imm) ∧ WritesBack (.slti rs rt imm) (fun s => s.memWb.aluOutput))

/-- 44_alu_immediate.md R158 to R160; the widening is the decision D13 of the spec. -/
def Obligations.ImmediateLogicWritesRt : Prop :=
  ∀ (rs rt : Five) (imm : Half),
    (decode (packI 0x0C rs rt imm) = .ok (.andi rs rt imm) ∧
      Computes (.andi rs rt imm) rt (fun s => s.idEx.a &&& BitVec.ofNat 32 imm.toNat) ∧
      PassesMem (.andi rs rt imm) ∧ WritesBack (.andi rs rt imm) (fun s => s.memWb.aluOutput)) ∧
    (decode (packI 0x0D rs rt imm) = .ok (.ori rs rt imm) ∧
      Computes (.ori rs rt imm) rt (fun s => s.idEx.a ||| BitVec.ofNat 32 imm.toNat) ∧
      PassesMem (.ori rs rt imm) ∧ WritesBack (.ori rs rt imm) (fun s => s.memWb.aluOutput)) ∧
    (decode (packI 0x0E rs rt imm) = .ok (.xori rs rt imm) ∧
      Computes (.xori rs rt imm) rt (fun s => s.idEx.a ^^^ BitVec.ofNat 32 imm.toNat) ∧
      PassesMem (.xori rs rt imm) ∧ WritesBack (.xori rs rt imm) (fun s => s.memWb.aluOutput))

/-- 44_alu_immediate.md R161; the classes at MEM and WB are the decisions D10, D12 of the spec. -/
def Obligations.LoadUpperIsNotWrittenBack : Prop :=
  ∀ (rs rt : Five) (imm : Half),
    decode (packI 0x0F rs rt imm) = .ok (.lui rs rt imm) ∧
    Computes (.lui rs rt imm) rt (fun _ => BitVec.ofNat 32 (imm.toNat * 2 ^ 16)) ∧
    PassesMem (.lui rs rt imm) ∧ ReportedByWb (.lui rs rt imm)

/-- 45_load_store.md R165, R166. The fault on an overrun is the decision D20 of the spec (assumption log 8); the wrap of the address is
D21, the passing on of ALUOutput D11 (assumption log 9). -/
def Obligations.LoadByteAndHalfSignExtend : Prop :=
  ∀ (rs rt : Five) (imm : Half),
    (decode (packI 0x20 rs rt imm) = .ok (.lb rs rt imm) ∧
      Computes (.lb rs rt imm) rt (fun s => BitVec.ofInt 32 (s.idEx.a.toInt + imm.toInt)) ∧
      LoadsInMem (.lb rs rt imm) (fun s l => l.aluOutput = s.exMem.aluOutput ∧
        (∀ r, s.platform.regionOf s.exMem.aluOutput = some r →
          l.lmd = extendedByte (s.byteAt s.exMem.aluOutput.toNat)) ∧
        (s.platform.regionOf s.exMem.aluOutput = none → l.lmd = 0)) ∧
      WritesBack (.lb rs rt imm) (fun s => s.memWb.lmd)) ∧
    (decode (packI 0x21 rs rt imm) = .ok (.lh rs rt imm) ∧
      Computes (.lh rs rt imm) rt (fun s => BitVec.ofInt 32 (s.idEx.a.toInt + imm.toInt)) ∧
      LoadsInMem (.lh rs rt imm) (fun s l => l.aluOutput = s.exMem.aluOutput ∧
        (∀ r, s.platform.regionOf s.exMem.aluOutput = some r →
          l.lmd = extendedHalf (s.byteAt (s.exMem.aluOutput.toNat + 1) ++ s.byteAt s.exMem.aluOutput.toNat)) ∧
        (s.platform.regionOf s.exMem.aluOutput = none → l.lmd = 0)) ∧
      WritesBack (.lh rs rt imm) (fun s => s.memWb.lmd))

/-- 45_load_store.md R167 (90_conflicts.md C7). The fault on an overrun is the decision D20 of the spec (assumption log 8); the wrap of
the address is D21, LMD = 0 after reset D4 (assumption log 9). -/
def Obligations.LoadWordWritesTheStaleLmd : Prop :=
  (∀ (rs rt : Five) (imm : Half),
    decode (packI 0x23 rs rt imm) = .ok (.lw rs rt imm) ∧
    Computes (.lw rs rt imm) rt (fun s => BitVec.ofInt 32 (s.idEx.a.toInt + imm.toInt)) ∧
    LoadsInMem (.lw rs rt imm) (fun s l => s.memRead s.exMem.aluOutput = .ok l.aluOutput ∧ l.lmd = s.memWb.lmd) ∧
    WritesBack (.lw rs rt imm) (fun s => s.memWb.lmd)) ∧
  (∀ s t, step s = .next t → memClass s.exMem.opcode ≠ .loadb → memClass s.exMem.opcode ≠ .loadh →
    t.memWb.lmd = s.memWb.lmd) ∧
  (∀ p, (State.resetOn p).memWb.lmd = 0)

/-- 45_load_store.md R168, R169. The fault on an overrun is the decision D20 of the spec (assumption log 8); the wrap of the address is
D21, the passing on of ALUOutput D11 (assumption log 9). -/
def Obligations.StoreByteAndHalfMerge : Prop :=
  ∀ (rs rt : Five) (imm : Half),
    (decode (packI 0x28 rs rt imm) = .ok (.sb rs rt imm) ∧
      Computes (.sb rs rt imm) rt (fun s => BitVec.ofInt 32 (s.idEx.a.toInt + imm.toInt)) ∧
      StoresInMem (.sb rs rt imm) 1 ∧ WritesNoRegister (.sb rs rt imm)) ∧
    (decode (packI 0x29 rs rt imm) = .ok (.sh rs rt imm) ∧
      Computes (.sh rs rt imm) rt (fun s => BitVec.ofInt 32 (s.idEx.a.toInt + imm.toInt)) ∧
      StoresInMem (.sh rs rt imm) 2 ∧ WritesNoRegister (.sh rs rt imm))

/-- 45_load_store.md R170. The fault on an overrun is the decision D20 of the spec (assumption log 8); the wrap of the address is D21,
the passing on of ALUOutput D11 (assumption log 9). -/
def Obligations.StoreWordWritesFourBytes : Prop :=
  ∀ (rs rt : Five) (imm : Half),
    decode (packI 0x2B rs rt imm) = .ok (.sw rs rt imm) ∧
    Computes (.sw rs rt imm) rt (fun s => BitVec.ofInt 32 (s.idEx.a.toInt + imm.toInt)) ∧
    StoresInMem (.sw rs rt imm) 4 ∧ WritesNoRegister (.sw rs rt imm)

/-- 46_control_inert.md R175, R176, R179 to R184; the form of the report is the decision D22 of the spec. -/
def Obligations.BranchesAndJumpsAreInert : Prop :=
  ∀ (rs rt : Five) (imm : Half) (target : BitVec 26),
    (decode (packJ 0x02 target) = .ok (.j target) ∧ InertInEx (.j target) ∧
      ReportedByMem (.j target) ∧ ReportedByWb (.j target)) ∧
    (decode (packJ 0x03 target) = .ok (.jal target) ∧ InertInEx (.jal target) ∧
      ReportedByMem (.jal target) ∧ ReportedByWb (.jal target)) ∧
    (decode (packI 0x04 rs rt imm) = .ok (.beq rs rt imm) ∧ InertInEx (.beq rs rt imm) ∧
      ReportedByMem (.beq rs rt imm) ∧ ReportedByWb (.beq rs rt imm)) ∧
    (decode (packI 0x05 rs rt imm) = .ok (.bne rs rt imm) ∧ InertInEx (.bne rs rt imm) ∧
      ReportedByMem (.bne rs rt imm) ∧ ReportedByWb (.bne rs rt imm)) ∧
    (decode (packI 0x06 rs rt imm) = .ok (.blez rs rt imm) ∧ InertInEx (.blez rs rt imm) ∧
      ReportedByMem (.blez rs rt imm) ∧ ReportedByWb (.blez rs rt imm)) ∧
    (decode (packI 0x07 rs rt imm) = .ok (.bgtz rs rt imm) ∧ InertInEx (.bgtz rs rt imm) ∧
      ReportedByMem (.bgtz rs rt imm) ∧ ReportedByWb (.bgtz rs rt imm)) ∧
    (decode (packI 0x01 rs 0x00 imm) = .ok (.bltz rs imm) ∧ InertInEx (.bltz rs imm) ∧
      ReportedByMem (.bltz rs imm) ∧ ReportedByWb (.bltz rs imm)) ∧
    (decode (packI 0x01 rs 0x01 imm) = .ok (.bgez rs imm) ∧ InertInEx (.bgez rs imm) ∧
      ReportedByMem (.bgez rs imm) ∧ ReportedByWb (.bgez rs imm))

/-- 46_control_inert.md R177, R178. -/
def Obligations.JumpRegistersAreInert : Prop :=
  ∀ rs rt rd sa : Five,
    (decode (packR 0x00 rs rt rd sa 0x08) = .ok (.jr rs rt rd sa) ∧ InertInEx (.jr rs rt rd sa) ∧
      PassesMem (.jr rs rt rd sa) ∧ WritesNoRegister (.jr rs rt rd sa)) ∧
    (decode (packR 0x00 rs rt rd sa 0x09) = .ok (.jalr rs rt rd sa) ∧ InertInEx (.jalr rs rt rd sa) ∧
      PassesMem (.jalr rs rt rd sa) ∧ WritesNoRegister (.jalr rs rt rd sa))

/-- 47_system.md R190; the stage and snapshot of the test are the decision D15 of the spec. -/
def Obligations.SyscallHaltsOnTen : Prop :=
  ∀ code : BitVec 20,
    decode (0x00#6 ++ code ++ 0x0C#6) = .ok (.syscall code) ∧
    (∀ s, s.stage = .ex → ∃ t, exec (.syscall code) s = .next t ∧
      (s.cur.reg 2 = 0x0000000A → t.run = false) ∧ (s.cur.reg 2 ≠ 0x0000000A → t.run = s.run) ∧
      t.exMem.aluOutput = s.exMem.aluOutput ∧ ExPassed s t ∧ ExKeeps s t ∧ KeepsHiLo s t ∧
      t.reports.ex = s.reports.ex) ∧
    PassesMem (.syscall code) ∧ WritesNoRegister (.syscall code)

/-- 10_state.md R23, 60_exceptions.md R202. That EX tests register 2 of CUR is the decision D15 of the spec, RUN = 1 after reset D5
(assumption log 9); that an edge of a halted core is a step to the same state is the choice of the model (assumption log 2, D16). -/
def Obligations.OnlySyscallHalts : Prop :=
  (∀ s t, s.run = true → step s = .next t →
    (t.run = false ↔ (∃ code, s.idEx.instr = .ok (.syscall code)) ∧ s.cur.reg 2 = 0xA) ∧
    t.cur.pc = s.cur.pc + 4) ∧
  (∀ p, (State.resetOn p).run = true) ∧ (∀ s, (hostReset s).run = true) ∧
  (∀ s t, s.run = false → step s = .next t → t = s)

/-- 70_reset_and_hazards.md R236, which the spec derives; the last clause is the model's choice (assumption log 2). -/
def Obligations.HaltCutsThePipeline : Prop :=
  ∀ s t, s.run = true → s.trail → 2 ≤ s.cycleCount → step s = .next t → t.run = false →
    t.cycleCount = s.cycleCount + 1 ∧ t.cur = t.nxt ∧ t.cur.pc = s.idEx.pc + 12 ∧
    t.exMem.ir = s.idEx.ir ∧ t.exMem.pc = s.idEx.pc ∧ t.memWb.ir = s.exMem.ir ∧
    t.idEx.pc = s.idEx.pc + 4 ∧ t.ifId.pc = s.idEx.pc + 8 ∧ step t = .next t

/-- 10_state.md R14: no other stage touches the registers. -/
def Obligations.OnlyWritebackWritesRegisters : Prop :=
  ∀ s t r, s.run = true → step s = .next t →
    t.cur.reg r =
      if r = s.memWb.dest ∧ wbClass s.memWb.opcode s.memWb.funct = .writeAlu then s.memWb.aluOutput
      else if r = s.memWb.dest ∧ wbClass s.memWb.opcode s.memWb.funct = .writeLmd then s.memWb.lmd
      else s.nxt.reg r

/-- 10_state.md R13. -/
def Obligations.RegisterZeroIsOrdinary : Prop :=
  (∀ s t, s.run = true → step s = .next t → s.memWb.dest = 0 →
    (wbClass s.memWb.opcode s.memWb.funct = .writeAlu → t.cur.reg 0 = s.memWb.aluOutput) ∧
    (wbClass s.memWb.opcode s.memWb.funct = .writeLmd → t.cur.reg 0 = s.memWb.lmd)) ∧
  (∀ s t, s.run = true → step s = .next t →
    (t.idEx.rs = 0 → t.idEx.a = s.cur.reg 0) ∧ (t.idEx.rt = 0 → t.idEx.b = s.cur.reg 0)) ∧
  (∀ p, (State.resetOn p).cur.reg 0 = 0 ∧ (State.resetOn p).nxt.reg 0 = 0)

/-- 10_state.md R26, 40_pipeline.md R99: MEM alone writes memory. -/
def Obligations.OnlyStoresChangeMemory : Prop :=
  ∀ s t n, s.mem.wf → step s = .next t →
    (n < s.exMem.aluOutput.toNat ∨
      s.exMem.aluOutput.toNat + (memClass s.exMem.opcode).storedBytes ≤ n) →
    t.byteAt n = s.byteAt n

/-- 10_state.md R17. -/
def Obligations.HiLoChangeOnlyByHiLoClass : Prop :=
  ∀ s t, s.run = true → step s = .next t →
    exClass s.idEx.opcode s.idEx.funct s.idEx.rt ≠ .hilo → t.cur.hi = s.nxt.hi ∧ t.cur.lo = s.nxt.lo

/-- 70_reset_and_hazards.md R233; the snapshot is the decision D14 of the spec. -/
def Obligations.HiLoHaveNoHazard : Prop :=
  ∀ s t u rs rt rd sa rs' rt' rd' sa', s.run = true → step s = .next t → t.run = true → step t = .next u →
    (s.idEx.instr = .ok (.mthi rs rt rd sa) → t.idEx.instr = .ok (.mfhi rs' rt' rd' sa') →
      u.exMem.aluOutput = s.idEx.a) ∧
    (s.idEx.instr = .ok (.mtlo rs rt rd sa) → t.idEx.instr = .ok (.mflo rs' rt' rd' sa') →
      u.exMem.aluOutput = s.idEx.a)

/-- 20_memory.md R50, R52, 70_reset_and_hazards.md R231. -/
def Obligations.DecodeSeesTheStoreNotTheWriteback : Prop :=
  ∀ s t, s.run = true → step s = .next t →
    t.memRead s.ifId.pc = .ok t.idEx.ir ∧ t.memRead s.cur.pc = .ok t.ifId.ir ∧
    t.idEx.pc = s.ifId.pc ∧ t.ifId.pc = s.cur.pc ∧ t.idEx.fields = fieldsOf t.idEx.ir ∧
    t.idEx.a = s.cur.reg t.idEx.rs ∧ t.idEx.b = s.cur.reg t.idEx.rt

/-- 40_pipeline.md R91: every stage reads the latch values of the cycle before. -/
def Obligations.InstructionsTravelDownTheLatches : Prop :=
  ∀ s t, s.run = true → step s = .next t →
    ExPassed s t ∧ MemPassed s t ∧
    (s.coherent → t.exMem.instr = s.idEx.instr ∧ t.memWb.instr = s.exMem.instr)

/-- 70_reset_and_hazards.md R230, R231, R235, which the spec derives. -/
def Obligations.ResultReachesItsRegisterInWriteback : Prop :=
  ∀ (s₀ s₁ s₂ s₃ u : State) (i : Instr),
    s₀.run = true → s₁.run = true → s₂.run = true →
    step s₀ = .next s₁ → step s₁ = .next s₂ → step s₂ = .next s₃ →
    s₀.idEx.instr = .ok i → exec i (s₀.atStage .ex) = .next u →
    (wbClass s₀.idEx.opcode s₀.idEx.funct = .writeAlu → s₃.cur.reg s₀.idEx.destination = u.exMem.aluOutput) ∧
    (memClass s₀.idEx.opcode = .loadb → ∃ w, s₁.memRead u.exMem.aluOutput = .ok w ∧
      s₃.cur.reg s₀.idEx.destination = extendedByte (w.extractLsb' 0 8)) ∧
    (memClass s₀.idEx.opcode = .loadh → ∃ w, s₁.memRead u.exMem.aluOutput = .ok w ∧
      s₃.cur.reg s₀.idEx.destination = extendedHalf (w.extractLsb' 0 16)) ∧
    (memClass s₀.idEx.opcode = .loadw → s₃.cur.reg s₀.idEx.destination = s₁.memWb.lmd) ∧
    (∀ r, r ≠ s₀.idEx.destination ∨ wbClass s₀.idEx.opcode s₀.idEx.funct = .none ∨
      wbClass s₀.idEx.opcode s₀.idEx.funct = .unrec → s₃.cur.reg r = s₂.nxt.reg r) ∧
    (∀ r, r ≠ s₀.memWb.dest → s₁.cur.reg r = s₀.nxt.reg r) ∧
    (∀ r, r ≠ s₀.exMem.dest → s₂.cur.reg r = s₁.nxt.reg r)

/-- 10_state.md R11, R26, 20_memory.md R41, 40_pipeline.md R94, R95, R98. -/
def Obligations.InvariantKept : Prop :=
  ∀ s t, s.Inv → step s = .next t → t.Inv ∧ t.platform = s.platform

/-- 10_state.md R27; the platform of State.reset is the model's choice (assumption log 1). -/
def Obligations.InvariantAtReset : Prop :=
  (∀ p, (State.resetOn p).Inv) ∧ State.reset.Inv ∧ resetPlatform.wf

/-- 10_state.md R15, R16. -/
def Obligations.AddressesTrailThePc : Prop :=
  (∀ p, (State.resetOn p).trail) ∧ (∀ s t, s.trail → step s = .next t → t.trail)

/-- 10_state.md R27, 70_reset_and_hazards.md R220; latches, RUN and counters are the decisions D4, D5 of the spec. -/
def Obligations.ResetClearsTheMachine : Prop :=
  ∀ s, (∀ r, (hostReset s).cur.reg r = 0) ∧ (hostReset s).cur.hi = 0 ∧ (hostReset s).cur.lo = 0 ∧
    (hostReset s).cur.pc = s.platform.textBase ∧ (hostReset s).nxt = (hostReset s).cur ∧
    (∀ n, (hostReset s).byteAt n = 0) ∧ (hostReset s).ifId = ⟨0, 0⟩ ∧
    (hostReset s).idEx = ⟨0, 0, 0, 0, 0, 0, 0, 0, 0, 0, 0, 0⟩ ∧ (hostReset s).exMem = ⟨0, 0, 0, 0, 0, 0, 0, 0⟩ ∧
    (hostReset s).memWb = ⟨0, 0, 0, 0, 0, 0, 0⟩ ∧
    (hostReset s).idEx.instr = .ok (.sll 0 0 0 0) ∧ (hostReset s).exMem.instr = .ok (.sll 0 0 0 0) ∧
    (hostReset s).memWb.instr = .ok (.sll 0 0 0 0) ∧
    (hostReset s).run = true ∧ (hostReset s).cycleCount = 0 ∧ (hostReset s).instrCount = 0 ∧
    hostReset (hostReset s) = hostReset s

/-- 60_exceptions.md R211; that both snapshots are written is the decision D19 of the spec (assumption log 9, 10). -/
def Obligations.HostMovesKeepTheInvariant : Prop :=
  (∀ s, s.Inv → (hostReset s).Inv ∧ (∀ i v, (hostSetRegister i v s).Inv) ∧ (∀ v, (hostSetHi v s).Inv) ∧
    (∀ v, (hostSetLo v s).Inv) ∧ (∀ ws t, hostLoadWords ws s = .next t → t.Inv)) ∧
  (∀ s i v, (∀ r, (hostSetRegister i v s).cur.reg r = (if r = i then v else s.cur.reg r) ∧
      (hostSetRegister i v s).nxt.reg r = (if r = i then v else s.nxt.reg r)) ∧
    KeepsHi s (hostSetRegister i v s) ∧ KeepsLo s (hostSetRegister i v s) ∧ HostKeeps s (hostSetRegister i v s)) ∧
  (∀ s v, (hostSetHi v s).cur.hi = v ∧ (hostSetHi v s).nxt.hi = v ∧ KeepsRegisters s (hostSetHi v s) ∧
    KeepsLo s (hostSetHi v s) ∧ HostKeeps s (hostSetHi v s)) ∧
  (∀ s v, (hostSetLo v s).cur.lo = v ∧ (hostSetLo v s).nxt.lo = v ∧ KeepsRegisters s (hostSetLo v s) ∧
    KeepsHi s (hostSetLo v s) ∧ HostKeeps s (hostSetLo v s))
end

