-- ==== Sys2Proof/Laws/Decode.lean ====
section
/-! SUPPORT. The fields of packed words, and the shape of a decoded instruction. -/

namespace Sys2Proof

theorem fieldsOf_packR (op : Six) (rs rt rd sa : Five) (fn : Six) :
    (fieldsOf (packR op rs rt rd sa fn)).opcode = op ∧ (fieldsOf (packR op rs rt rd sa fn)).rs = rs ∧
    (fieldsOf (packR op rs rt rd sa fn)).rt = rt ∧ (fieldsOf (packR op rs rt rd sa fn)).rd = rd ∧
    (fieldsOf (packR op rs rt rd sa fn)).shamt = sa ∧ (fieldsOf (packR op rs rt rd sa fn)).funct = fn := by
  simp only [fieldsOf, packR]
  refine ⟨?_, ?_, ?_, ?_, ?_, ?_⟩ <;>
  · apply BitVec.eq_of_getLsbD_eq
    intro i hi
    simp only [BitVec.getLsbD_extractLsb', BitVec.getLsbD_append, hi, decide_true, Bool.true_and]
    repeat' split
    all_goals first | omega | (congr 1; omega)

theorem fieldsOf_packI (op : Six) (rs rt : Five) (imm : Half) :
    (fieldsOf (packI op rs rt imm)).opcode = op ∧ (fieldsOf (packI op rs rt imm)).rs = rs ∧
    (fieldsOf (packI op rs rt imm)).rt = rt ∧ (fieldsOf (packI op rs rt imm)).imm = imm := by
  simp only [fieldsOf, packI]
  refine ⟨?_, ?_, ?_, ?_⟩ <;>
  · apply BitVec.eq_of_getLsbD_eq
    intro i hi
    simp only [BitVec.getLsbD_extractLsb', BitVec.getLsbD_append, hi, decide_true, Bool.true_and]
    repeat' split
    all_goals first | omega | (congr 1; omega)

theorem fieldsOf_packJ (op : Six) (target : BitVec 26) :
    (fieldsOf (packJ op target)).opcode = op ∧ (fieldsOf (packJ op target)).target = target := by
  simp only [fieldsOf, packJ]
  refine ⟨?_, ?_⟩ <;>
  · apply BitVec.eq_of_getLsbD_eq
    intro i hi
    simp only [BitVec.getLsbD_extractLsb', BitVec.getLsbD_append, hi, decide_true, Bool.true_and]
    repeat' split
    all_goals first | omega | (congr 1; omega)

/-- A word is its R-format fields put together. -/
theorem packR_fieldsOf (w : Word) :
    packR (fieldsOf w).opcode (fieldsOf w).rs (fieldsOf w).rt (fieldsOf w).rd (fieldsOf w).shamt (fieldsOf w).funct = w := by
  simp only [fieldsOf, packR]
  apply BitVec.eq_of_getLsbD_eq
  intro i hi
  simp only [BitVec.getLsbD_append, BitVec.getLsbD_extractLsb']
  repeat' split
  all_goals (rw [decide_eq_true (by omega), Bool.true_and]; congr 1; omega)

/-- A word is its I-format fields put together. -/
theorem packI_fieldsOf (w : Word) :
    packI (fieldsOf w).opcode (fieldsOf w).rs (fieldsOf w).rt (fieldsOf w).imm = w := by
  simp only [fieldsOf, packI]
  apply BitVec.eq_of_getLsbD_eq
  intro i hi
  simp only [BitVec.getLsbD_append, BitVec.getLsbD_extractLsb']
  repeat' split
  all_goals (rw [decide_eq_true (by omega), Bool.true_and]; congr 1; omega)

/-- A word is its J-format fields put together. -/
theorem packJ_fieldsOf (w : Word) : packJ (fieldsOf w).opcode (fieldsOf w).target = w := by
  simp only [fieldsOf, packJ]
  apply BitVec.eq_of_getLsbD_eq
  intro i hi
  simp only [BitVec.getLsbD_append, BitVec.getLsbD_extractLsb']
  repeat' split
  all_goals (rw [decide_eq_true (by omega), Bool.true_and]; congr 1; omega)

/-- A six-bit field read as a number is the field. -/
theorem six_eq_ofNat {x : Six} {n : Nat} (h : x.toNat = n) : x = BitVec.ofNat 6 n := by
  apply BitVec.eq_of_toNat_eq
  have := x.isLt
  rw [h, BitVec.toNat_ofNat, Nat.mod_eq_of_lt (by omega)]

/-- A five-bit field read as a number is the field. -/
theorem five_eq_ofNat {x : Five} {n : Nat} (h : x.toNat = n) : x = BitVec.ofNat 5 n := by
  apply BitVec.eq_of_toNat_eq
  have := x.isLt
  rw [h, BitVec.toNat_ofNat, Nat.mod_eq_of_lt (by omega)]

/-- What the mask of an opcode-0 row keeps of a word. -/
theorem and_specialMask (w : Word) :
    w &&& 0xFC00003F = packR (fieldsOf w).opcode 0 0 0 0 (fieldsOf w).funct := by
  simp only [packR, fieldsOf]
  apply BitVec.eq_of_getLsbD_eq
  intro i hi
  simp only [BitVec.getLsbD_and, BitVec.getLsbD_append, BitVec.getLsbD_extractLsb']
  interval_cases i <;> simp

/-- What the mask of an opcode-1 row keeps of a word. -/
theorem and_regimmMask (w : Word) :
    w &&& 0xFC1F0000 = packI (fieldsOf w).opcode 0 (fieldsOf w).rt 0 := by
  simp only [packI, fieldsOf]
  apply BitVec.eq_of_getLsbD_eq
  intro i hi
  simp only [BitVec.getLsbD_and, BitVec.getLsbD_append, BitVec.getLsbD_extractLsb']
  interval_cases i <;> simp

/-- What the mask of the other rows keeps of a word. -/
theorem and_opcodeMask (w : Word) : w &&& 0xFC000000 = packJ (fieldsOf w).opcode 0 := by
  simp only [packJ, fieldsOf]
  apply BitVec.eq_of_getLsbD_eq
  intro i hi
  simp only [BitVec.getLsbD_and, BitVec.getLsbD_append, BitVec.getLsbD_extractLsb']
  interval_cases i <;> simp

/-- An R-format word on the bits an opcode-0 row fixes. -/
theorem packR_and_specialMask (op : Six) (rs rt rd sa : Five) (fn : Six) :
    packR op rs rt rd sa fn &&& 0xFC00003F = packR op 0 0 0 0 fn := by
  obtain ⟨ho, _, _, _, _, hf⟩ := fieldsOf_packR op rs rt rd sa fn
  rw [and_specialMask, ho, hf]

/-- An I-format word on the bits an opcode-1 row fixes. -/
theorem packI_and_regimmMask (op : Six) (rs rt : Five) (imm : Half) :
    packI op rs rt imm &&& 0xFC1F0000 = packI op 0 rt 0 := by
  obtain ⟨ho, _, hr, _⟩ := fieldsOf_packI op rs rt imm
  rw [and_regimmMask, ho, hr]

/-- An I-format word on the bits the other rows fix. -/
theorem packI_and_opcodeMask (op : Six) (rs rt : Five) (imm : Half) :
    packI op rs rt imm &&& 0xFC000000 = packJ op 0 := by
  rw [and_opcodeMask, (fieldsOf_packI op rs rt imm).1]

/-- A J-format word on the bits its row fixes. -/
theorem packJ_and_opcodeMask (op : Six) (target : BitVec 26) :
    packJ op target &&& 0xFC000000 = packJ op 0 := by
  rw [and_opcodeMask, (fieldsOf_packJ op target).1]

/-- A SYSCALL word is an R-format word whose four middle fields are the parts of its code (47_system.md R190). -/
theorem packR_code (op fn : Six) (code : BitVec 20) :
    packR op (code.extractLsb' 15 5) (code.extractLsb' 10 5) (code.extractLsb' 5 5) (code.extractLsb' 0 5) fn =
      op ++ code ++ fn := by
  simp only [packR]
  apply BitVec.eq_of_getLsbD_eq
  intro i hi
  simp only [BitVec.getLsbD_append, BitVec.getLsbD_extractLsb']
  interval_cases i <;> simp

end Sys2Proof
end

