-- ==== Sys2Proof/Laws/State.lean ====
section
/-! SUPPORT. One lemma per field per update of the state, each true by definition. -/

namespace Sys2Proof.Machine

@[simp] theorem setReg_hi (c : Snapshot) (i : Five) (v : Word) : (c.setReg i v).hi = c.hi := rfl
@[simp] theorem setReg_lo (c : Snapshot) (i : Five) (v : Word) : (c.setReg i v).lo = c.lo := rfl
@[simp] theorem setReg_pc (c : Snapshot) (i : Five) (v : Word) : (c.setReg i v).pc = c.pc := rfl

@[simp] theorem reg_setReg_same (c : Snapshot) (i : Five) (v : Word) : (c.setReg i v).reg i = v := by
  simp [Snapshot.reg, Snapshot.setReg]

theorem reg_setReg_ne (c : Snapshot) {i j : Five} (v : Word) (h : j ≠ i) : (c.setReg i v).reg j = c.reg j := by
  have hij : i.toNat ≠ j.toNat := fun e => h (BitVec.eq_of_toNat_eq e.symm)
  simp [Snapshot.reg, Snapshot.setReg, Vector.getElem_set_ne, hij]

theorem reg_setReg (c : Snapshot) (i j : Five) (v : Word) :
    (c.setReg i v).reg j = if j = i then v else c.reg j := by
  by_cases h : j = i
  · subst h; simp
  · simp [h, reg_setReg_ne c v h]

@[simp] theorem byteAt_mem (s : State) (n : Nat) : s.byteAt n = s.mem.byteAt n := rfl
@[simp] theorem memRead_eq (s : State) (a : Word) : s.memRead a = read32 s.platform s.mem a := rfl

@[simp] theorem writeReg_cur (s : State) (i : Five) (v : Word) : (s.writeReg i v).cur = s.cur := rfl
@[simp] theorem writeReg_nxt (s : State) (i : Five) (v : Word) : (s.writeReg i v).nxt = s.nxt.setReg i v := rfl
@[simp] theorem writeReg_ifId (s : State) (i : Five) (v : Word) : (s.writeReg i v).ifId = s.ifId := rfl
@[simp] theorem writeReg_idEx (s : State) (i : Five) (v : Word) : (s.writeReg i v).idEx = s.idEx := rfl
@[simp] theorem writeReg_exMem (s : State) (i : Five) (v : Word) : (s.writeReg i v).exMem = s.exMem := rfl
@[simp] theorem writeReg_memWb (s : State) (i : Five) (v : Word) : (s.writeReg i v).memWb = s.memWb := rfl
@[simp] theorem writeReg_run (s : State) (i : Five) (v : Word) : (s.writeReg i v).run = s.run := rfl
@[simp] theorem writeReg_cycleCount (s : State) (i : Five) (v : Word) : (s.writeReg i v).cycleCount = s.cycleCount := rfl
@[simp] theorem writeReg_instrCount (s : State) (i : Five) (v : Word) : (s.writeReg i v).instrCount = s.instrCount := rfl
@[simp] theorem writeReg_mem (s : State) (i : Five) (v : Word) : (s.writeReg i v).mem = s.mem := rfl
@[simp] theorem writeReg_platform (s : State) (i : Five) (v : Word) : (s.writeReg i v).platform = s.platform := rfl
@[simp] theorem writeReg_reports (s : State) (i : Five) (v : Word) : (s.writeReg i v).reports = s.reports := rfl
@[simp] theorem writeReg_stage (s : State) (i : Five) (v : Word) : (s.writeReg i v).stage = s.stage := rfl
@[simp] theorem writeReg_freeDraws (s : State) (i : Five) (v : Word) : (s.writeReg i v).freeDraws = s.freeDraws := rfl

@[simp] theorem writeHi_cur (s : State) (v : Word) : (s.writeHi v).cur = s.cur := rfl
@[simp] theorem writeHi_nxt (s : State) (v : Word) : (s.writeHi v).nxt = { s.nxt with hi := v } := rfl
@[simp] theorem writeHi_ifId (s : State) (v : Word) : (s.writeHi v).ifId = s.ifId := rfl
@[simp] theorem writeHi_idEx (s : State) (v : Word) : (s.writeHi v).idEx = s.idEx := rfl
@[simp] theorem writeHi_exMem (s : State) (v : Word) : (s.writeHi v).exMem = s.exMem := rfl
@[simp] theorem writeHi_memWb (s : State) (v : Word) : (s.writeHi v).memWb = s.memWb := rfl
@[simp] theorem writeHi_run (s : State) (v : Word) : (s.writeHi v).run = s.run := rfl
@[simp] theorem writeHi_cycleCount (s : State) (v : Word) : (s.writeHi v).cycleCount = s.cycleCount := rfl
@[simp] theorem writeHi_instrCount (s : State) (v : Word) : (s.writeHi v).instrCount = s.instrCount := rfl
@[simp] theorem writeHi_mem (s : State) (v : Word) : (s.writeHi v).mem = s.mem := rfl
@[simp] theorem writeHi_platform (s : State) (v : Word) : (s.writeHi v).platform = s.platform := rfl
@[simp] theorem writeHi_reports (s : State) (v : Word) : (s.writeHi v).reports = s.reports := rfl
@[simp] theorem writeHi_stage (s : State) (v : Word) : (s.writeHi v).stage = s.stage := rfl
@[simp] theorem writeHi_freeDraws (s : State) (v : Word) : (s.writeHi v).freeDraws = s.freeDraws := rfl

@[simp] theorem writeLo_cur (s : State) (v : Word) : (s.writeLo v).cur = s.cur := rfl
@[simp] theorem writeLo_nxt (s : State) (v : Word) : (s.writeLo v).nxt = { s.nxt with lo := v } := rfl
@[simp] theorem writeLo_ifId (s : State) (v : Word) : (s.writeLo v).ifId = s.ifId := rfl
@[simp] theorem writeLo_idEx (s : State) (v : Word) : (s.writeLo v).idEx = s.idEx := rfl
@[simp] theorem writeLo_exMem (s : State) (v : Word) : (s.writeLo v).exMem = s.exMem := rfl
@[simp] theorem writeLo_memWb (s : State) (v : Word) : (s.writeLo v).memWb = s.memWb := rfl
@[simp] theorem writeLo_run (s : State) (v : Word) : (s.writeLo v).run = s.run := rfl
@[simp] theorem writeLo_cycleCount (s : State) (v : Word) : (s.writeLo v).cycleCount = s.cycleCount := rfl
@[simp] theorem writeLo_instrCount (s : State) (v : Word) : (s.writeLo v).instrCount = s.instrCount := rfl
@[simp] theorem writeLo_mem (s : State) (v : Word) : (s.writeLo v).mem = s.mem := rfl
@[simp] theorem writeLo_platform (s : State) (v : Word) : (s.writeLo v).platform = s.platform := rfl
@[simp] theorem writeLo_reports (s : State) (v : Word) : (s.writeLo v).reports = s.reports := rfl
@[simp] theorem writeLo_stage (s : State) (v : Word) : (s.writeLo v).stage = s.stage := rfl
@[simp] theorem writeLo_freeDraws (s : State) (v : Word) : (s.writeLo v).freeDraws = s.freeDraws := rfl

@[simp] theorem writePc_cur (s : State) (v : Word) : (s.writePc v).cur = s.cur := rfl
@[simp] theorem writePc_nxt (s : State) (v : Word) : (s.writePc v).nxt = { s.nxt with pc := v } := rfl
@[simp] theorem writePc_ifId (s : State) (v : Word) : (s.writePc v).ifId = s.ifId := rfl
@[simp] theorem writePc_idEx (s : State) (v : Word) : (s.writePc v).idEx = s.idEx := rfl
@[simp] theorem writePc_exMem (s : State) (v : Word) : (s.writePc v).exMem = s.exMem := rfl
@[simp] theorem writePc_memWb (s : State) (v : Word) : (s.writePc v).memWb = s.memWb := rfl
@[simp] theorem writePc_run (s : State) (v : Word) : (s.writePc v).run = s.run := rfl
@[simp] theorem writePc_cycleCount (s : State) (v : Word) : (s.writePc v).cycleCount = s.cycleCount := rfl
@[simp] theorem writePc_instrCount (s : State) (v : Word) : (s.writePc v).instrCount = s.instrCount := rfl
@[simp] theorem writePc_mem (s : State) (v : Word) : (s.writePc v).mem = s.mem := rfl
@[simp] theorem writePc_platform (s : State) (v : Word) : (s.writePc v).platform = s.platform := rfl
@[simp] theorem writePc_reports (s : State) (v : Word) : (s.writePc v).reports = s.reports := rfl
@[simp] theorem writePc_stage (s : State) (v : Word) : (s.writePc v).stage = s.stage := rfl
@[simp] theorem writePc_freeDraws (s : State) (v : Word) : (s.writePc v).freeDraws = s.freeDraws := rfl

@[simp] theorem atStage_cur (s : State) (st : Stage) : (s.atStage st).cur = s.cur := rfl
@[simp] theorem atStage_nxt (s : State) (st : Stage) : (s.atStage st).nxt = s.nxt := rfl
@[simp] theorem atStage_ifId (s : State) (st : Stage) : (s.atStage st).ifId = s.ifId := rfl
@[simp] theorem atStage_idEx (s : State) (st : Stage) : (s.atStage st).idEx = s.idEx := rfl
@[simp] theorem atStage_exMem (s : State) (st : Stage) : (s.atStage st).exMem = s.exMem := rfl
@[simp] theorem atStage_memWb (s : State) (st : Stage) : (s.atStage st).memWb = s.memWb := rfl
@[simp] theorem atStage_run (s : State) (st : Stage) : (s.atStage st).run = s.run := rfl
@[simp] theorem atStage_cycleCount (s : State) (st : Stage) : (s.atStage st).cycleCount = s.cycleCount := rfl
@[simp] theorem atStage_instrCount (s : State) (st : Stage) : (s.atStage st).instrCount = s.instrCount := rfl
@[simp] theorem atStage_mem (s : State) (st : Stage) : (s.atStage st).mem = s.mem := rfl
@[simp] theorem atStage_platform (s : State) (st : Stage) : (s.atStage st).platform = s.platform := rfl
@[simp] theorem atStage_reports (s : State) (st : Stage) : (s.atStage st).reports = s.reports := rfl
@[simp] theorem atStage_stage (s : State) (st : Stage) : (s.atStage st).stage = st := rfl
@[simp] theorem atStage_freeDraws (s : State) (st : Stage) : (s.atStage st).freeDraws = s.freeDraws := rfl

@[simp] theorem clearReports_cur (s : State) : (clearReports s).cur = s.cur := rfl
@[simp] theorem clearReports_nxt (s : State) : (clearReports s).nxt = s.nxt := rfl
@[simp] theorem clearReports_ifId (s : State) : (clearReports s).ifId = s.ifId := rfl
@[simp] theorem clearReports_idEx (s : State) : (clearReports s).idEx = s.idEx := rfl
@[simp] theorem clearReports_exMem (s : State) : (clearReports s).exMem = s.exMem := rfl
@[simp] theorem clearReports_memWb (s : State) : (clearReports s).memWb = s.memWb := rfl
@[simp] theorem clearReports_run (s : State) : (clearReports s).run = s.run := rfl
@[simp] theorem clearReports_cycleCount (s : State) : (clearReports s).cycleCount = s.cycleCount := rfl
@[simp] theorem clearReports_instrCount (s : State) : (clearReports s).instrCount = s.instrCount := rfl
@[simp] theorem clearReports_mem (s : State) : (clearReports s).mem = s.mem := rfl
@[simp] theorem clearReports_platform (s : State) : (clearReports s).platform = s.platform := rfl
@[simp] theorem clearReports_reports (s : State) : (clearReports s).reports = ⟨false, false, false⟩ := rfl
@[simp] theorem clearReports_stage (s : State) : (clearReports s).stage = s.stage := rfl
@[simp] theorem clearReports_freeDraws (s : State) : (clearReports s).freeDraws = s.freeDraws := rfl

@[simp] theorem exPass_cur (s : State) : (exPass s).cur = s.cur := rfl
@[simp] theorem exPass_nxt (s : State) : (exPass s).nxt = s.nxt := rfl
@[simp] theorem exPass_ifId (s : State) : (exPass s).ifId = s.ifId := rfl
@[simp] theorem exPass_idEx (s : State) : (exPass s).idEx = s.idEx := rfl
@[simp] theorem exPass_exMem (s : State) : (exPass s).exMem = { s.exMem with
      ir := s.idEx.ir, pc := s.idEx.pc, opcode := s.idEx.opcode, funct := s.idEx.funct, a := s.idEx.a, b := s.idEx.b,
      dest := if s.idEx.opcode = 0 then s.idEx.rd else s.idEx.rt } := rfl
@[simp] theorem exPass_memWb (s : State) : (exPass s).memWb = s.memWb := rfl
@[simp] theorem exPass_run (s : State) : (exPass s).run = s.run := rfl
@[simp] theorem exPass_cycleCount (s : State) : (exPass s).cycleCount = s.cycleCount := rfl
@[simp] theorem exPass_instrCount (s : State) : (exPass s).instrCount = s.instrCount := rfl
@[simp] theorem exPass_mem (s : State) : (exPass s).mem = s.mem := rfl
@[simp] theorem exPass_platform (s : State) : (exPass s).platform = s.platform := rfl
@[simp] theorem exPass_reports (s : State) : (exPass s).reports = s.reports := rfl
@[simp] theorem exPass_stage (s : State) : (exPass s).stage = s.stage := rfl
@[simp] theorem exPass_freeDraws (s : State) : (exPass s).freeDraws = s.freeDraws := rfl

@[simp] theorem memHand_cur (s : State) : (memHand s).cur = s.cur := rfl
@[simp] theorem memHand_nxt (s : State) : (memHand s).nxt = s.nxt := rfl
@[simp] theorem memHand_ifId (s : State) : (memHand s).ifId = s.ifId := rfl
@[simp] theorem memHand_idEx (s : State) : (memHand s).idEx = s.idEx := rfl
@[simp] theorem memHand_exMem (s : State) : (memHand s).exMem = s.exMem := rfl
@[simp] theorem memHand_memWb (s : State) : (memHand s).memWb = { s.memWb with
      ir := s.exMem.ir, pc := s.exMem.pc, opcode := s.exMem.opcode, funct := s.exMem.funct, dest := s.exMem.dest } := rfl
@[simp] theorem memHand_run (s : State) : (memHand s).run = s.run := rfl
@[simp] theorem memHand_cycleCount (s : State) : (memHand s).cycleCount = s.cycleCount := rfl
@[simp] theorem memHand_instrCount (s : State) : (memHand s).instrCount = s.instrCount := rfl
@[simp] theorem memHand_mem (s : State) : (memHand s).mem = s.mem := rfl
@[simp] theorem memHand_platform (s : State) : (memHand s).platform = s.platform := rfl
@[simp] theorem memHand_reports (s : State) : (memHand s).reports = s.reports := rfl
@[simp] theorem memHand_stage (s : State) : (memHand s).stage = s.stage := rfl
@[simp] theorem memHand_freeDraws (s : State) : (memHand s).freeDraws = s.freeDraws := rfl

@[simp] theorem memAlu_cur (s : State) (v : Word) : (memAlu v s).cur = s.cur := rfl
@[simp] theorem memAlu_nxt (s : State) (v : Word) : (memAlu v s).nxt = s.nxt := rfl
@[simp] theorem memAlu_ifId (s : State) (v : Word) : (memAlu v s).ifId = s.ifId := rfl
@[simp] theorem memAlu_idEx (s : State) (v : Word) : (memAlu v s).idEx = s.idEx := rfl
@[simp] theorem memAlu_exMem (s : State) (v : Word) : (memAlu v s).exMem = s.exMem := rfl
@[simp] theorem memAlu_memWb (s : State) (v : Word) : (memAlu v s).memWb = { (memHand s).memWb with aluOutput := v } := rfl
@[simp] theorem memAlu_run (s : State) (v : Word) : (memAlu v s).run = s.run := rfl
@[simp] theorem memAlu_cycleCount (s : State) (v : Word) : (memAlu v s).cycleCount = s.cycleCount := rfl
@[simp] theorem memAlu_instrCount (s : State) (v : Word) : (memAlu v s).instrCount = s.instrCount := rfl
@[simp] theorem memAlu_mem (s : State) (v : Word) : (memAlu v s).mem = s.mem := rfl
@[simp] theorem memAlu_platform (s : State) (v : Word) : (memAlu v s).platform = s.platform := rfl
@[simp] theorem memAlu_reports (s : State) (v : Word) : (memAlu v s).reports = s.reports := rfl
@[simp] theorem memAlu_stage (s : State) (v : Word) : (memAlu v s).stage = s.stage := rfl
@[simp] theorem memAlu_freeDraws (s : State) (v : Word) : (memAlu v s).freeDraws = s.freeDraws := rfl

@[simp] theorem memLmd_cur (s : State) (v : Word) : (memLmd v s).cur = s.cur := rfl
@[simp] theorem memLmd_nxt (s : State) (v : Word) : (memLmd v s).nxt = s.nxt := rfl
@[simp] theorem memLmd_ifId (s : State) (v : Word) : (memLmd v s).ifId = s.ifId := rfl
@[simp] theorem memLmd_idEx (s : State) (v : Word) : (memLmd v s).idEx = s.idEx := rfl
@[simp] theorem memLmd_exMem (s : State) (v : Word) : (memLmd v s).exMem = s.exMem := rfl
@[simp] theorem memLmd_memWb (s : State) (v : Word) : (memLmd v s).memWb = { (memHand s).memWb with aluOutput := s.exMem.aluOutput, lmd := v } := rfl
@[simp] theorem memLmd_run (s : State) (v : Word) : (memLmd v s).run = s.run := rfl
@[simp] theorem memLmd_cycleCount (s : State) (v : Word) : (memLmd v s).cycleCount = s.cycleCount := rfl
@[simp] theorem memLmd_instrCount (s : State) (v : Word) : (memLmd v s).instrCount = s.instrCount := rfl
@[simp] theorem memLmd_mem (s : State) (v : Word) : (memLmd v s).mem = s.mem := rfl
@[simp] theorem memLmd_platform (s : State) (v : Word) : (memLmd v s).platform = s.platform := rfl
@[simp] theorem memLmd_reports (s : State) (v : Word) : (memLmd v s).reports = s.reports := rfl
@[simp] theorem memLmd_stage (s : State) (v : Word) : (memLmd v s).stage = s.stage := rfl
@[simp] theorem memLmd_freeDraws (s : State) (v : Word) : (memLmd v s).freeDraws = s.freeDraws := rfl

@[simp] theorem wbCount_cur (s : State) : (wbCount s).cur = s.cur := rfl
@[simp] theorem wbCount_nxt (s : State) : (wbCount s).nxt = s.nxt := rfl
@[simp] theorem wbCount_ifId (s : State) : (wbCount s).ifId = s.ifId := rfl
@[simp] theorem wbCount_idEx (s : State) : (wbCount s).idEx = s.idEx := rfl
@[simp] theorem wbCount_exMem (s : State) : (wbCount s).exMem = s.exMem := rfl
@[simp] theorem wbCount_memWb (s : State) : (wbCount s).memWb = s.memWb := rfl
@[simp] theorem wbCount_run (s : State) : (wbCount s).run = s.run := rfl
@[simp] theorem wbCount_cycleCount (s : State) : (wbCount s).cycleCount = s.cycleCount := rfl
@[simp] theorem wbCount_instrCount (s : State) : (wbCount s).instrCount = if s.memWb.ir = 0 then s.instrCount else s.instrCount + 1 := rfl
@[simp] theorem wbCount_mem (s : State) : (wbCount s).mem = s.mem := rfl
@[simp] theorem wbCount_platform (s : State) : (wbCount s).platform = s.platform := rfl
@[simp] theorem wbCount_reports (s : State) : (wbCount s).reports = s.reports := rfl
@[simp] theorem wbCount_stage (s : State) : (wbCount s).stage = s.stage := rfl
@[simp] theorem wbCount_freeDraws (s : State) : (wbCount s).freeDraws = s.freeDraws := rfl

@[simp] theorem commit_cur (s : State) : (commit s).cur = s.nxt := rfl
@[simp] theorem commit_nxt (s : State) : (commit s).nxt = s.nxt := rfl
@[simp] theorem commit_ifId (s : State) : (commit s).ifId = s.ifId := rfl
@[simp] theorem commit_idEx (s : State) : (commit s).idEx = s.idEx := rfl
@[simp] theorem commit_exMem (s : State) : (commit s).exMem = s.exMem := rfl
@[simp] theorem commit_memWb (s : State) : (commit s).memWb = s.memWb := rfl
@[simp] theorem commit_run (s : State) : (commit s).run = s.run := rfl
@[simp] theorem commit_cycleCount (s : State) : (commit s).cycleCount = s.cycleCount + 1 := rfl
@[simp] theorem commit_instrCount (s : State) : (commit s).instrCount = s.instrCount := rfl
@[simp] theorem commit_mem (s : State) : (commit s).mem = s.mem := rfl
@[simp] theorem commit_platform (s : State) : (commit s).platform = s.platform := rfl
@[simp] theorem commit_reports (s : State) : (commit s).reports = s.reports := rfl
@[simp] theorem commit_stage (s : State) : (commit s).stage = .wb := rfl
@[simp] theorem commit_freeDraws (s : State) : (commit s).freeDraws = s.freeDraws := rfl

@[simp] theorem withWordInExecute_cur (s : State) (w : Word) : (s.withWordInExecute w).cur = s.cur := rfl
@[simp] theorem withWordInExecute_nxt (s : State) (w : Word) : (s.withWordInExecute w).nxt = s.nxt := rfl
@[simp] theorem withWordInExecute_ifId (s : State) (w : Word) : (s.withWordInExecute w).ifId = s.ifId := rfl
@[simp] theorem withWordInExecute_idEx (s : State) (w : Word) : (s.withWordInExecute w).idEx = decodedLatch w (s.cur.pc - 8) s.cur := rfl
@[simp] theorem withWordInExecute_exMem (s : State) (w : Word) : (s.withWordInExecute w).exMem = s.exMem := rfl
@[simp] theorem withWordInExecute_memWb (s : State) (w : Word) : (s.withWordInExecute w).memWb = s.memWb := rfl
@[simp] theorem withWordInExecute_run (s : State) (w : Word) : (s.withWordInExecute w).run = true := rfl
@[simp] theorem withWordInExecute_cycleCount (s : State) (w : Word) : (s.withWordInExecute w).cycleCount = s.cycleCount := rfl
@[simp] theorem withWordInExecute_instrCount (s : State) (w : Word) : (s.withWordInExecute w).instrCount = s.instrCount := rfl
@[simp] theorem withWordInExecute_mem (s : State) (w : Word) : (s.withWordInExecute w).mem = s.mem := rfl
@[simp] theorem withWordInExecute_platform (s : State) (w : Word) : (s.withWordInExecute w).platform = s.platform := rfl
@[simp] theorem withWordInExecute_reports (s : State) (w : Word) : (s.withWordInExecute w).reports = s.reports := rfl
@[simp] theorem withWordInExecute_stage (s : State) (w : Word) : (s.withWordInExecute w).stage = s.stage := rfl
@[simp] theorem withWordInExecute_freeDraws (s : State) (w : Word) : (s.withWordInExecute w).freeDraws = s.freeDraws := rfl

@[simp] theorem hostSetRegister_cur (s : State) (i : Five) (v : Word) : (hostSetRegister i v s).cur = s.cur.setReg i v := rfl
@[simp] theorem hostSetRegister_nxt (s : State) (i : Five) (v : Word) : (hostSetRegister i v s).nxt = s.nxt.setReg i v := rfl
@[simp] theorem hostSetRegister_ifId (s : State) (i : Five) (v : Word) : (hostSetRegister i v s).ifId = s.ifId := rfl
@[simp] theorem hostSetRegister_idEx (s : State) (i : Five) (v : Word) : (hostSetRegister i v s).idEx = s.idEx := rfl
@[simp] theorem hostSetRegister_exMem (s : State) (i : Five) (v : Word) : (hostSetRegister i v s).exMem = s.exMem := rfl
@[simp] theorem hostSetRegister_memWb (s : State) (i : Five) (v : Word) : (hostSetRegister i v s).memWb = s.memWb := rfl
@[simp] theorem hostSetRegister_run (s : State) (i : Five) (v : Word) : (hostSetRegister i v s).run = s.run := rfl
@[simp] theorem hostSetRegister_cycleCount (s : State) (i : Five) (v : Word) : (hostSetRegister i v s).cycleCount = s.cycleCount := rfl
@[simp] theorem hostSetRegister_instrCount (s : State) (i : Five) (v : Word) : (hostSetRegister i v s).instrCount = s.instrCount := rfl
@[simp] theorem hostSetRegister_mem (s : State) (i : Five) (v : Word) : (hostSetRegister i v s).mem = s.mem := rfl
@[simp] theorem hostSetRegister_platform (s : State) (i : Five) (v : Word) : (hostSetRegister i v s).platform = s.platform := rfl
@[simp] theorem hostSetRegister_reports (s : State) (i : Five) (v : Word) : (hostSetRegister i v s).reports = s.reports := rfl
@[simp] theorem hostSetRegister_stage (s : State) (i : Five) (v : Word) : (hostSetRegister i v s).stage = s.stage := rfl
@[simp] theorem hostSetRegister_freeDraws (s : State) (i : Five) (v : Word) : (hostSetRegister i v s).freeDraws = s.freeDraws := rfl

@[simp] theorem hostSetHi_cur (s : State) (v : Word) : (hostSetHi v s).cur = { s.cur with hi := v } := rfl
@[simp] theorem hostSetHi_nxt (s : State) (v : Word) : (hostSetHi v s).nxt = { s.nxt with hi := v } := rfl
@[simp] theorem hostSetHi_ifId (s : State) (v : Word) : (hostSetHi v s).ifId = s.ifId := rfl
@[simp] theorem hostSetHi_idEx (s : State) (v : Word) : (hostSetHi v s).idEx = s.idEx := rfl
@[simp] theorem hostSetHi_exMem (s : State) (v : Word) : (hostSetHi v s).exMem = s.exMem := rfl
@[simp] theorem hostSetHi_memWb (s : State) (v : Word) : (hostSetHi v s).memWb = s.memWb := rfl
@[simp] theorem hostSetHi_run (s : State) (v : Word) : (hostSetHi v s).run = s.run := rfl
@[simp] theorem hostSetHi_cycleCount (s : State) (v : Word) : (hostSetHi v s).cycleCount = s.cycleCount := rfl
@[simp] theorem hostSetHi_instrCount (s : State) (v : Word) : (hostSetHi v s).instrCount = s.instrCount := rfl
@[simp] theorem hostSetHi_mem (s : State) (v : Word) : (hostSetHi v s).mem = s.mem := rfl
@[simp] theorem hostSetHi_platform (s : State) (v : Word) : (hostSetHi v s).platform = s.platform := rfl
@[simp] theorem hostSetHi_reports (s : State) (v : Word) : (hostSetHi v s).reports = s.reports := rfl
@[simp] theorem hostSetHi_stage (s : State) (v : Word) : (hostSetHi v s).stage = s.stage := rfl
@[simp] theorem hostSetHi_freeDraws (s : State) (v : Word) : (hostSetHi v s).freeDraws = s.freeDraws := rfl

@[simp] theorem hostSetLo_cur (s : State) (v : Word) : (hostSetLo v s).cur = { s.cur with lo := v } := rfl
@[simp] theorem hostSetLo_nxt (s : State) (v : Word) : (hostSetLo v s).nxt = { s.nxt with lo := v } := rfl
@[simp] theorem hostSetLo_ifId (s : State) (v : Word) : (hostSetLo v s).ifId = s.ifId := rfl
@[simp] theorem hostSetLo_idEx (s : State) (v : Word) : (hostSetLo v s).idEx = s.idEx := rfl
@[simp] theorem hostSetLo_exMem (s : State) (v : Word) : (hostSetLo v s).exMem = s.exMem := rfl
@[simp] theorem hostSetLo_memWb (s : State) (v : Word) : (hostSetLo v s).memWb = s.memWb := rfl
@[simp] theorem hostSetLo_run (s : State) (v : Word) : (hostSetLo v s).run = s.run := rfl
@[simp] theorem hostSetLo_cycleCount (s : State) (v : Word) : (hostSetLo v s).cycleCount = s.cycleCount := rfl
@[simp] theorem hostSetLo_instrCount (s : State) (v : Word) : (hostSetLo v s).instrCount = s.instrCount := rfl
@[simp] theorem hostSetLo_mem (s : State) (v : Word) : (hostSetLo v s).mem = s.mem := rfl
@[simp] theorem hostSetLo_platform (s : State) (v : Word) : (hostSetLo v s).platform = s.platform := rfl
@[simp] theorem hostSetLo_reports (s : State) (v : Word) : (hostSetLo v s).reports = s.reports := rfl
@[simp] theorem hostSetLo_stage (s : State) (v : Word) : (hostSetLo v s).stage = s.stage := rfl
@[simp] theorem hostSetLo_freeDraws (s : State) (v : Word) : (hostSetLo v s).freeDraws = s.freeDraws := rfl

end Sys2Proof.Machine
end

