-- ==== Sys2Proof/Laws/Memory.lean ====
section
/-! SUPPORT. The laws of memory: what a read sees after a store, and that every store keeps the canonical form. -/

namespace Sys2Proof.Machine

/-- In canonical memory the head is the lowest address, so any lower one is unlisted. -/
theorem Memory.byteAt_below {m : Memory} {a : Nat} (h : ∀ c ∈ m, a < c.1) : m.byteAt a = 0 := by
  induction m with
  | nil => rfl
  | cons c m ih =>
    have hc := h c (by simp)
    simp only [Memory.byteAt]
    rw [if_neg (by omega)]
    exact ih fun d hd => h d (by simp [hd])

theorem Memory.wf_tail {c : Host.Cell} {m : Memory} (h : Memory.wf (c :: m)) : m.wf :=
  ⟨(List.pairwise_cons.mp h.1).2, fun d hd => h.2 d (by simp [hd])⟩

theorem Memory.wf_head {c : Host.Cell} {m : Memory} (h : Memory.wf (c :: m)) : ∀ d ∈ m, c.1 < d.1 :=
  (List.pairwise_cons.mp h.1).1

/-- Where the cells of a memory after a store come from. -/
theorem Memory.mem_put {m : Memory} {a : Nat} {v : Byte} {c : Host.Cell} (h : c ∈ m.put a v) :
    c ∈ m ∨ (c = (a, v) ∧ v ≠ 0) := by
  induction m with
  | nil =>
    by_cases hv : v = 0 <;> simp_all [Memory.put]
  | cons d m ih =>
    simp only [Memory.put] at h
    split at h
    · split at h
      · exact .inl h
      · rcases List.mem_cons.mp h with h | h
        · exact .inr ⟨h, ‹_›⟩
        · exact .inl h
    · split at h
      · split at h
        · exact .inl (by simp [h])
        · rcases List.mem_cons.mp h with h | h
          · exact .inr ⟨h, ‹_›⟩
          · exact .inl (by simp [h])
      · rcases List.mem_cons.mp h with h | h
        · exact .inl (by simp [h])
        · exact (ih h).imp (fun h => by simp [h]) id

/-- A byte store keeps the canonical form. -/
theorem Memory.put_wf {m : Memory} (h : m.wf) (a : Nat) (v : Byte) : (m.put a v).wf := by
  induction m with
  | nil =>
    simp only [Memory.put]
    split
    · exact h
    · rename_i hv
      exact ⟨List.pairwise_singleton _ _, fun c hc => by rw [List.mem_singleton.mp hc]; exact hv⟩
  | cons d m ih =>
    have hd := Memory.wf_head h
    have ht := Memory.wf_tail h
    have hz : d.2 ≠ 0 := h.2 d (by simp)
    simp only [Memory.put]
    split
    · rename_i hlt
      split
      · exact h
      · rename_i hv
        refine ⟨List.pairwise_cons.mpr ⟨?_, h.1⟩, ?_⟩
        · intro c hc
          rcases List.mem_cons.mp hc with rfl | hc
          · exact hlt
          · exact Nat.lt_trans hlt (hd c hc)
        · intro c hc
          rcases List.mem_cons.mp hc with rfl | hc
          · exact hv
          · exact h.2 c hc
    · rename_i hge
      split
      · rename_i he
        split
        · exact ht
        · rename_i hv
          refine ⟨List.pairwise_cons.mpr ⟨?_, ht.1⟩, ?_⟩
          · intro c hc
            simpa [he] using hd c hc
          · intro c hc
            rcases List.mem_cons.mp hc with rfl | hc
            · exact hv
            · exact ht.2 c hc
      · rename_i hne
        refine ⟨List.pairwise_cons.mpr ⟨?_, (ih ht).1⟩, ?_⟩
        · intro c hc
          rcases Memory.mem_put hc with hc | ⟨rfl, _⟩
          · exact hd c hc
          · show d.1 < a
            omega
        · intro c hc
          rcases List.mem_cons.mp hc with rfl | hc
          · exact hz
          · exact (ih ht).2 c hc

/-- A read after a byte store: the value stored at its address, the old byte everywhere else. -/
theorem Memory.byteAt_put {m : Memory} (h : m.wf) (a : Nat) (v : Byte) (n : Nat) :
    (m.put a v).byteAt n = if n = a then v else m.byteAt n := by
  induction m with
  | nil =>
    simp only [Memory.put]
    split
    · rename_i hv
      by_cases hn : n = a <;> simp [Memory.byteAt, hn, hv]
    · by_cases hn : n = a <;> simp [Memory.byteAt, hn]
  | cons d m ih =>
    have hd := Memory.wf_head h
    have ht := Memory.wf_tail h
    simp only [Memory.put]
    split
    · rename_i hlt
      have below : Memory.byteAt (d :: m) a = 0 := Memory.byteAt_below (by
        intro c hc
        rcases List.mem_cons.mp hc with rfl | hc
        · exact hlt
        · exact Nat.lt_trans hlt (hd c hc))
      split
      · rename_i hv
        by_cases hn : n = a
        · subst hn; simpa [hv] using below
        · simp [hn]
      · by_cases hn : n = a <;> simp [Memory.byteAt, hn]
    · split
      · rename_i _ he
        have below : Memory.byteAt m a = 0 := Memory.byteAt_below (by simpa [he] using hd)
        split
        · rename_i hv
          by_cases hn : n = a
          · subst hn; simpa [hv] using below
          · simp [Memory.byteAt, hn, ← he]
        · by_cases hn : n = a <;> simp [Memory.byteAt, hn, ← he]
      · rename_i _ hne
        by_cases hn : n = d.1
        · have : n ≠ a := by rw [hn]; exact fun e => hne e.symm
          simp [Memory.byteAt, hn]
          intro e
          exact absurd e.symm hne
        · simp [Memory.byteAt, hn, ih ht]

/-- A word store keeps the canonical form. -/
theorem Memory.putWord_wf {m : Memory} (h : m.wf) (n : Nat) (v : Word) : (m.putWord n v).wf :=
  Memory.put_wf (Memory.put_wf (Memory.put_wf (Memory.put_wf h _ _) _ _) _ _) _ _

/-- A byte read after a word store. -/
theorem Memory.byteAt_putWord {m : Memory} (h : m.wf) (n : Nat) (v : Word) (k : Nat) :
    (m.putWord n v).byteAt k =
      if k = n + 3 then byteOf v 3 else if k = n + 2 then byteOf v 2 else if k = n + 1 then byteOf v 1
      else if k = n then byteOf v 0 else m.byteAt k := by
  have h0 := Memory.put_wf h n (byteOf v 0)
  have h1 := Memory.put_wf h0 (n + 1) (byteOf v 1)
  have h2 := Memory.put_wf h1 (n + 2) (byteOf v 2)
  simp only [Memory.putWord, Memory.byteAt_put h2, Memory.byteAt_put h1, Memory.byteAt_put h0, Memory.byteAt_put h]

/-- A word's bytes make up the word. -/
theorem wordOfBytes_byteOf (v : Word) : wordOfBytes (byteOf v 0) (byteOf v 1) (byteOf v 2) (byteOf v 3) = v := by
  apply BitVec.eq_of_getLsbD_eq
  intro i hi
  simp only [wordOfBytes, byteOf, BitVec.getLsbD_append, BitVec.getLsbD_extractLsb']
  by_cases h1 : i < 8
  · simp [h1]
  by_cases h2 : i < 16
  · simp [h1, show i - 8 < 8 by omega, show 8 + (i - 8) = i by omega]
  by_cases h3 : i < 24
  · simp [h1, show ¬ i - 8 < 8 by omega, show i - 8 - 8 < 8 by omega, show 16 + (i - 8 - 8) = i by omega]
  · simp [h1, show ¬ i - 8 < 8 by omega, show ¬ i - 8 - 8 < 8 by omega, show i - 8 - 8 - 8 < 8 by omega,
      show 24 + (i - 8 - 8 - 8) = i by omega]

/-- A word read after a word store at the same place. -/
theorem Memory.wordAt_putWord {m : Memory} (h : m.wf) (n : Nat) (v : Word) : (m.putWord n v).wordAt n = v := by
  simp [Memory.wordAt, Memory.byteAt_putWord h, wordOfBytes_byteOf]

/-- Reading changes nothing and gives one of three answers. -/
theorem read32_cases (p : Platform) (m : Memory) (a : Word) :
    (p.regionOf a = none ∧ read32 p m a = .ok 0) ∨
    (∃ r, p.regionOf a = some r ∧ a.toNat + 3 ≤ r.last.toNat ∧ read32 p m a = .ok (m.wordAt a.toNat)) ∨
    (∃ r, p.regionOf a = some r ∧ r.last.toNat < a.toNat + 3 ∧ read32 p m a = .error .regionOverrun) := by
  unfold read32
  split
  · rename_i h; exact .inl ⟨h, rfl⟩
  · rename_i r h
    split
    · exact .inr (.inl ⟨r, h, ‹_›, rfl⟩)
    · exact .inr (.inr ⟨r, h, by omega, rfl⟩)

/-- A store ends in one of three ways. -/
theorem write32_cases (p : Platform) (m : Memory) (a v : Word) :
    (p.regionOf a = none ∧ write32 p m a v = .ok m) ∨
    (∃ r, p.regionOf a = some r ∧ a.toNat + 3 ≤ r.last.toNat ∧ write32 p m a v = .ok (m.putWord a.toNat v)) ∨
    (∃ r, p.regionOf a = some r ∧ r.last.toNat < a.toNat + 3 ∧ write32 p m a v = .error .regionOverrun) := by
  unfold write32
  split
  · rename_i h; exact .inl ⟨h, rfl⟩
  · rename_i r h
    split
    · exact .inr (.inl ⟨r, h, ‹_›, rfl⟩)
    · exact .inr (.inr ⟨r, h, by omega, rfl⟩)

/-- A read answers exactly when it overruns no region. -/
theorem read32_ok_iff (p : Platform) (m : Memory) (a : Word) : (∃ w, read32 p m a = .ok w) ↔ p.noOverrun a := by
  rcases read32_cases p m a with ⟨h, e⟩ | ⟨r, h, hr, e⟩ | ⟨r, h, hr, e⟩ <;>
    simp [e, Platform.noOverrun, h] <;> omega

/-- A read that does not answer is a region overrun. -/
theorem read32_error {p : Platform} {m : Memory} {a : Word} {f : Fault} (h : read32 p m a = .error f) :
    f = .regionOverrun := by cases f; rfl

theorem write32_ok_iff (p : Platform) (m : Memory) (a v : Word) :
    (∃ m', write32 p m a v = .ok m') ↔ p.noOverrun a := by
  rcases write32_cases p m a v with ⟨h, e⟩ | ⟨r, h, hr, e⟩ | ⟨r, h, hr, e⟩ <;>
    simp [e, Platform.noOverrun, h] <;> omega

/-- `write32` keeps the canonical form. -/
theorem write32_wf {p : Platform} {m m' : Memory} {a v : Word} (h : m.wf) (hw : write32 p m a v = .ok m') :
    m'.wf := by
  rcases write32_cases p m a v with ⟨_, e⟩ | ⟨r, _, _, e⟩ | ⟨r, _, _, e⟩ <;> rw [e] at hw
  · cases hw; exact h
  · cases hw; exact Memory.putWord_wf h _ _
  · cases hw

/-- `write32` leaves every byte but the four from its address on. -/
theorem write32_frame {p : Platform} {m m' : Memory} {a v : Word} (h : m.wf) (hw : write32 p m a v = .ok m')
    {n : Nat} (hn : n < a.toNat ∨ a.toNat + 4 ≤ n) : m'.byteAt n = m.byteAt n := by
  rcases write32_cases p m a v with ⟨_, e⟩ | ⟨r, _, _, e⟩ | ⟨r, _, _, e⟩ <;> rw [e] at hw
  · cases hw; rfl
  · cases hw
    rw [Memory.byteAt_putWord h]
    rw [if_neg (by omega), if_neg (by omega), if_neg (by omega), if_neg (by omega)]
  · cases hw

/-- The region found is one of the platform's and holds the address. -/
theorem regionOf_some {p : Platform} {a : Word} {r : Region} (h : p.regionOf a = some r) :
    r ∈ p.regions ∧ r.first.toNat ≤ a.toNat ∧ a.toNat ≤ r.last.toNat := by
  refine ⟨List.mem_of_find?_eq_some h, ?_⟩
  simpa [Region.contains] using List.find?_some h

/-- `write32` puts bytes in regions only. -/
theorem write32_placed {p : Platform} {m m' : Memory} {a v : Word} (h : Memory.placed p m)
    (hw : write32 p m a v = .ok m') : Memory.placed p m' := by
  rcases write32_cases p m a v with ⟨_, e⟩ | ⟨r, hr, hl, e⟩ | ⟨r, _, _, e⟩ <;> rw [e] at hw
  · cases hw; exact h
  · cases hw
    obtain ⟨hm, h1, h2⟩ := regionOf_some hr
    have here : ∀ k, k ≤ 3 → ∃ r ∈ p.regions, r.first.toNat ≤ a.toNat + k ∧ a.toNat + k ≤ r.last.toNat :=
      fun k hk => ⟨r, hm, by omega, by omega⟩
    intro c hc
    rcases Memory.mem_put hc with hc | ⟨rfl, _⟩
    · rcases Memory.mem_put hc with hc | ⟨rfl, _⟩
      · rcases Memory.mem_put hc with hc | ⟨rfl, _⟩
        · rcases Memory.mem_put hc with hc | ⟨rfl, _⟩
          · exact h c hc
          · exact here 0 (by omega)
        · exact here 1 (by omega)
      · exact here 2 (by omega)
    · exact here 3 (by omega)
  · cases hw

end Sys2Proof.Machine
end

