-- ==== Sys2Proof/Laws/PerInstr.lean ====
section
/-! SUPPORT. The statement made of every instruction, one lemma per constructor: its encoding selects its own row of
the opcode table. -/

namespace Sys2Proof.Laws.EncodesItsRow

/-- The word of an instruction agrees with its row of spec/opcode_table.json on the bits the row fixes. -/
def Statement (i : Instr) : Prop := encode i &&& i.row.mask = i.row.bits

theorem sll (rs rt rd sa : Five) : Statement (.sll rs rt rd sa) := packR_and_specialMask _ _ _ _ _ _

theorem srl (rs rt rd sa : Five) : Statement (.srl rs rt rd sa) := packR_and_specialMask _ _ _ _ _ _

theorem sra (rs rt rd sa : Five) : Statement (.sra rs rt rd sa) := packR_and_specialMask _ _ _ _ _ _

theorem jr (rs rt rd sa : Five) : Statement (.jr rs rt rd sa) := packR_and_specialMask _ _ _ _ _ _

theorem jalr (rs rt rd sa : Five) : Statement (.jalr rs rt rd sa) := packR_and_specialMask _ _ _ _ _ _

theorem syscall (code : BitVec 20) : Statement (.syscall code) := by
  rw [Statement, encode, ← packR_code]
  exact packR_and_specialMask _ _ _ _ _ _

theorem mfhi (rs rt rd sa : Five) : Statement (.mfhi rs rt rd sa) := packR_and_specialMask _ _ _ _ _ _

theorem mthi (rs rt rd sa : Five) : Statement (.mthi rs rt rd sa) := packR_and_specialMask _ _ _ _ _ _

theorem mflo (rs rt rd sa : Five) : Statement (.mflo rs rt rd sa) := packR_and_specialMask _ _ _ _ _ _

theorem mtlo (rs rt rd sa : Five) : Statement (.mtlo rs rt rd sa) := packR_and_specialMask _ _ _ _ _ _

theorem mult (rs rt rd sa : Five) : Statement (.mult rs rt rd sa) := packR_and_specialMask _ _ _ _ _ _

theorem multu (rs rt rd sa : Five) : Statement (.multu rs rt rd sa) := packR_and_specialMask _ _ _ _ _ _

theorem div (rs rt rd sa : Five) : Statement (.div rs rt rd sa) := packR_and_specialMask _ _ _ _ _ _

theorem divu (rs rt rd sa : Five) : Statement (.divu rs rt rd sa) := packR_and_specialMask _ _ _ _ _ _

theorem add (rs rt rd sa : Five) : Statement (.add rs rt rd sa) := packR_and_specialMask _ _ _ _ _ _

theorem addu (rs rt rd sa : Five) : Statement (.addu rs rt rd sa) := packR_and_specialMask _ _ _ _ _ _

theorem sub (rs rt rd sa : Five) : Statement (.sub rs rt rd sa) := packR_and_specialMask _ _ _ _ _ _

theorem subu (rs rt rd sa : Five) : Statement (.subu rs rt rd sa) := packR_and_specialMask _ _ _ _ _ _

theorem and (rs rt rd sa : Five) : Statement (.and rs rt rd sa) := packR_and_specialMask _ _ _ _ _ _

theorem or (rs rt rd sa : Five) : Statement (.or rs rt rd sa) := packR_and_specialMask _ _ _ _ _ _

theorem xor (rs rt rd sa : Five) : Statement (.xor rs rt rd sa) := packR_and_specialMask _ _ _ _ _ _

theorem nor (rs rt rd sa : Five) : Statement (.nor rs rt rd sa) := packR_and_specialMask _ _ _ _ _ _

theorem slt (rs rt rd sa : Five) : Statement (.slt rs rt rd sa) := packR_and_specialMask _ _ _ _ _ _

theorem bltz (rs : Five) (imm : Half) : Statement (.bltz rs imm) := packI_and_regimmMask _ _ _ _

theorem bgez (rs : Five) (imm : Half) : Statement (.bgez rs imm) := packI_and_regimmMask _ _ _ _

theorem j (target : BitVec 26) : Statement (.j target) := packJ_and_opcodeMask _ _

theorem jal (target : BitVec 26) : Statement (.jal target) := packJ_and_opcodeMask _ _

theorem beq (rs rt : Five) (imm : Half) : Statement (.beq rs rt imm) := packI_and_opcodeMask _ _ _ _

theorem bne (rs rt : Five) (imm : Half) : Statement (.bne rs rt imm) := packI_and_opcodeMask _ _ _ _

theorem blez (rs rt : Five) (imm : Half) : Statement (.blez rs rt imm) := packI_and_opcodeMask _ _ _ _

theorem bgtz (rs rt : Five) (imm : Half) : Statement (.bgtz rs rt imm) := packI_and_opcodeMask _ _ _ _

theorem addi (rs rt : Five) (imm : Half) : Statement (.addi rs rt imm) := packI_and_opcodeMask _ _ _ _

theorem addiu (rs rt : Five) (imm : Half) : Statement (.addiu rs rt imm) := packI_and_opcodeMask _ _ _ _

theorem slti (rs rt : Five) (imm : Half) : Statement (.slti rs rt imm) := packI_and_opcodeMask _ _ _ _

theorem andi (rs rt : Five) (imm : Half) : Statement (.andi rs rt imm) := packI_and_opcodeMask _ _ _ _

theorem ori (rs rt : Five) (imm : Half) : Statement (.ori rs rt imm) := packI_and_opcodeMask _ _ _ _

theorem xori (rs rt : Five) (imm : Half) : Statement (.xori rs rt imm) := packI_and_opcodeMask _ _ _ _

theorem lui (rs rt : Five) (imm : Half) : Statement (.lui rs rt imm) := packI_and_opcodeMask _ _ _ _

theorem lb (rs rt : Five) (imm : Half) : Statement (.lb rs rt imm) := packI_and_opcodeMask _ _ _ _

theorem lh (rs rt : Five) (imm : Half) : Statement (.lh rs rt imm) := packI_and_opcodeMask _ _ _ _

theorem lw (rs rt : Five) (imm : Half) : Statement (.lw rs rt imm) := packI_and_opcodeMask _ _ _ _

theorem sb (rs rt : Five) (imm : Half) : Statement (.sb rs rt imm) := packI_and_opcodeMask _ _ _ _

theorem sh (rs rt : Five) (imm : Half) : Statement (.sh rs rt imm) := packI_and_opcodeMask _ _ _ _

theorem sw (rs rt : Five) (imm : Half) : Statement (.sw rs rt imm) := packI_and_opcodeMask _ _ _ _

end Sys2Proof.Laws.EncodesItsRow
end

