-- ==== Sys2Proof/Laws/Stages.lean ====
section
/-! SUPPORT. What each stage engine can do, said once: by the class of the word it finds. -/

namespace Sys2Proof.Machine

/-! Sequencing. -/

theorem andThen_next {r : Result} {k : State → Result} {t : State} :
    andThen r k = .next t ↔ ∃ s, r = .next s ∧ k s = .next t := by
  cases r <;> simp [andThen]

theorem andThen_fault {r : Result} {k : State → Result} {f : Fault} :
    andThen r k = .fault f ↔ r = .fault f ∨ ∃ s, r = .next s ∧ k s = .fault f := by
  cases r <;> simp [andThen]

theorem andThen_refused {r : Result} {k : State → Result} {q : Refusal} :
    andThen r k = .refused q ↔ r = .refused q ∨ ∃ s, r = .next s ∧ k s = .refused q := by
  cases r <;> simp [andThen]

theorem withRead_next {s : State} {a : Word} {k : Word → Result} {t : State} :
    s.withRead a k = .next t ↔ ∃ w, read32 s.platform s.mem a = .ok w ∧ k w = .next t := by
  unfold State.withRead State.memRead
  split <;> simp [*]

theorem memWrite_next {s : State} {a v : Word} {t : State} :
    s.memWrite a v = .next t ↔ ∃ m, write32 s.platform s.mem a v = .ok m ∧ t = { s with mem := m } := by
  unfold State.memWrite
  split <;> simp [*, eq_comm]

@[simp] theorem byStage_ex {e m w : State → Result} {s : State} (h : s.stage = .ex) : byStage e m w s = e s := by
  simp [byStage, h]

@[simp] theorem byStage_mem {e m w : State → Result} {s : State} (h : s.stage = .mem) : byStage e m w s = m s := by
  simp [byStage, h]

@[simp] theorem byStage_wb {e m w : State → Result} {s : State} (h : s.stage = .wb) : byStage e m w s = w s := by
  simp [byStage, h]

/-! The memory and writeback stages by class. -/

/-- What MEM does in each class. -/
def memDo : MemClass → State → Result
  | .pass => memPass
  | .loadb => memLoadByte
  | .loadh => memLoadHalf
  | .loadw => memLoadWord
  | .storeb => memStoreByte
  | .storeh => memStoreHalf
  | .storew => memStoreWord
  | .unrec => memUnrec

/-- What WB does in each class. -/
def wbDo : WbClass → State → Result
  | .writeAlu => wbWriteAlu
  | .writeLmd => wbWriteLmd
  | .none => wbNone
  | .unrec => wbUnrec

/-- The fields of a latched word: opcode and funct are the latch's own. -/
theorem fieldsOf_latchedWord (op fn : Six) (ir : Word) :
    (fieldsOf (latchedWord op fn ir)).opcode = op ∧ (fieldsOf (latchedWord op fn ir)).funct = fn := by
  simp only [fieldsOf, latchedWord]
  refine ⟨?_, ?_⟩ <;>
  · apply BitVec.eq_of_getLsbD_eq
    intro i hi
    simp only [BitVec.getLsbD_extractLsb', BitVec.getLsbD_append, hi, decide_true, Bool.true_and]
    repeat' split
    all_goals first | omega | (congr 1; omega)

/-- A latch whose opcode and funct are its word's holds that word. -/
theorem latchedWord_self {op fn : Six} {ir : Word} (ho : op = (fieldsOf ir).opcode) (hf : fn = (fieldsOf ir).funct) :
    latchedWord op fn ir = ir := by
  subst ho hf
  simp only [fieldsOf, latchedWord]
  apply BitVec.eq_of_getLsbD_eq
  intro i hi
  simp only [BitVec.getLsbD_append, BitVec.getLsbD_extractLsb']
  repeat' split
  all_goals (rw [decide_eq_true (by omega), Bool.true_and]; congr 1; omega)

/-- MEM on what the decoder made of a word. -/
def memOn (d : Except Reject Instr) (s : State) : Result :=
  match d with
  | .ok i => exec i s
  | .error _ => memUnrecognised s

/-- Whatever the decoder makes of the fields, MEM does what the class of the opcode says. -/
theorem mem_dispatch (f : Fields) (s : State) (hs : s.stage = .mem) (ho : s.exMem.opcode = f.opcode) :
    memOn (decodeFields f) s = memDo (memClass f.opcode) s := by
  unfold decodeFields
  split <;> rename_i h <;> try rw [six_eq_ofNat h]
  · unfold decodeSpecial
    split <;> first
      | exact byStage_mem hs
      | (simp only [memOn, memUnrecognised, ho, six_eq_ofNat h]; rfl)
  · unfold decodeRegimm
    split <;> first
      | exact byStage_mem hs
      | (simp only [memOn, memUnrecognised, ho, six_eq_ofNat h]; rfl)
  all_goals first
    | exact byStage_mem hs
    | (simp only [memOn, memUnrecognised, ho, memClass, BitVec.toNat_eq, List.mem_cons, List.not_mem_nil, or_false]
       simp_all [memDo])

/-- MEM does what the class of `EX_MEM.opcode` says (40_pipeline.md R99, R101). -/
theorem memEngine_eq (s : State) : memEngine s = memDo (memClass s.exMem.opcode) (s.atStage .mem) := by
  obtain ⟨ho, _⟩ := fieldsOf_latchedWord s.exMem.opcode s.exMem.funct s.exMem.ir
  have := mem_dispatch (fieldsOf (latchedWord s.exMem.opcode s.exMem.funct s.exMem.ir)) (s.atStage .mem) rfl ho.symm
  rw [ho] at this
  exact this

/-- WB on what the decoder made of a word. -/
def wbOn (d : Except Reject Instr) (s : State) : Result :=
  match d with
  | .ok i => exec i s
  | .error _ => wbUnrecognised s

/-- Whatever the decoder makes of the fields, WB does what the class of the opcode and funct says. -/
theorem wb_dispatch (f : Fields) (s : State) (hs : s.stage = .wb) (ho : s.memWb.opcode = f.opcode) :
    wbOn (decodeFields f) s = wbDo (wbClass f.opcode f.funct) s := by
  unfold decodeFields
  split <;> rename_i h <;> try rw [six_eq_ofNat h]
  · unfold decodeSpecial
    split <;> rename_i h2 <;> try rw [six_eq_ofNat h2]
    all_goals first
      | exact byStage_wb hs
      | (simp only [wbOn, wbUnrecognised, ho, six_eq_ofNat h, wbClass, BitVec.toNat_eq, List.mem_cons, List.not_mem_nil, or_false]
         simp_all [wbDo])
  · unfold decodeRegimm
    split <;> first
      | exact byStage_wb hs
      | (simp only [wbOn, wbUnrecognised, ho, six_eq_ofNat h]; rfl)
  all_goals first
    | exact byStage_wb hs
    | (simp only [wbOn, wbUnrecognised, ho, wbClass, BitVec.toNat_eq, List.mem_cons, List.not_mem_nil, or_false]
       simp_all [wbDo])

/-- WB does what the class of `MEM_WB.opcode` and `MEM_WB.funct` says (40_pipeline.md R102, R104). -/
theorem wbEngine_eq (s : State) : wbEngine s = wbDo (wbClass s.memWb.opcode s.memWb.funct) (s.atStage .wb) := by
  obtain ⟨ho, hf⟩ := fieldsOf_latchedWord s.memWb.opcode s.memWb.funct s.memWb.ir
  have := wb_dispatch (fieldsOf (latchedWord s.memWb.opcode s.memWb.funct s.memWb.ir)) (s.atStage .wb) rfl ho.symm
  rw [ho, hf] at this
  exact this

/-! The execute stage by class. -/

/-- EX on what the decoder made of a word. -/
def exOn (d : Except Reject Instr) (s : State) : Result :=
  match d with
  | .ok i => exec i s
  | .error _ => exUnrec s

/-- The results EX can have in each class. -/
def ExShape (c : ExClass) (s : State) (r : Result) : Prop :=
  match c with
  | .compute => ∃ v, r = exCompute v s
  | .hilo => r = exHi s.idEx.a s ∨ r = exLo s.idEx.a s ∨ (∃ h l, r = exHiLo h l s) ∨ r = exHiLoFree s ∨ r = exInert s
  | .halt => r = exHalt s
  | .inert => r = exInert s
  | .unrec => r = exUnrec s

theorem divide_shape (s : State) : ExShape .hilo s (divide s) := by
  simp only [ExShape, divide]
  split
  · simp
  · split
    · simp
    · exact .inr (.inr (.inl ⟨_, _, rfl⟩))

theorem divideUnsigned_shape (s : State) : ExShape .hilo s (divideUnsigned s) := by
  simp only [ExShape, divideUnsigned]
  split
  · simp
  · exact .inr (.inr (.inl ⟨_, _, rfl⟩))

/-- Whatever the decoder makes of the fields, EX has a result of the class of opcode, funct and rt. -/
theorem ex_dispatch (f : Fields) (s : State) (hs : s.stage = .ex) :
    ExShape (exClass f.opcode f.funct f.rt) s (exOn (decodeFields f) s) := by
  unfold decodeFields
  split <;> rename_i h <;> try rw [six_eq_ofNat h]
  · unfold decodeSpecial
    split <;> rename_i h2 <;> try rw [six_eq_ofNat h2]
    case h_13 =>
      show ExShape .hilo s (byStage divide memPass wbNone s)
      rw [byStage_ex hs]; exact divide_shape s
    case h_14 =>
      show ExShape .hilo s (byStage divideUnsigned memPass wbNone s)
      rw [byStage_ex hs]; exact divideUnsigned_shape s
    all_goals first
      | exact ⟨_, byStage_ex hs⟩
      | exact byStage_ex hs
      | exact .inl (byStage_ex hs)
      | exact .inr (.inl (byStage_ex hs))
      | exact .inr (.inr (.inl ⟨_, _, byStage_ex hs⟩))
      | (simp only [exClass, BitVec.toNat_eq, List.mem_cons, List.not_mem_nil, or_false]
         simp_all [ExShape, exOn])
  · unfold decodeRegimm
    split <;> rename_i h2 <;> try rw [five_eq_ofNat h2]
    all_goals first
      | exact byStage_ex hs
      | (simp only [exClass, BitVec.toNat_eq, List.mem_cons, List.not_mem_nil, or_false]
         simp_all [ExShape, exOn])
  all_goals first
    | exact ⟨_, byStage_ex hs⟩
    | exact byStage_ex hs
    | (simp only [exClass, BitVec.toNat_eq, List.mem_cons, List.not_mem_nil, or_false]
       simp_all [ExShape, exOn])

/-- EX has a result of the class of its latch (40_pipeline.md R96, R97). -/
theorem exEngine_shape (s : State) :
    ExShape (exClass s.idEx.opcode s.idEx.funct s.idEx.rt) (s.atStage .ex) (exEngine s) :=
  ex_dispatch s.idEx.fields (s.atStage .ex) rfl

/-! What each engine can do, whatever the word. -/

/-- EX always ends, passes its latch on and leaves all but its own alone. -/
theorem exEngine_next (s : State) :
    ∃ t, exEngine s = .next t ∧ ExPassed s t ∧ ExKeeps s t ∧ t.mem = s.mem ∧ t.stage = .ex := by
  have h := exEngine_shape s
  revert h
  cases exClass s.idEx.opcode s.idEx.funct s.idEx.rt with
  | compute =>
    rintro ⟨v, h⟩
    exact ⟨_, h, by constructor <;> rfl, by constructor <;> (intros; rfl), rfl, rfl⟩
  | hilo =>
    rintro (h | h | ⟨_, _, h⟩ | h | h) <;>
      exact ⟨_, h, by constructor <;> rfl, by constructor <;> (intros; rfl), rfl, rfl⟩
  | halt =>
    intro h
    simp only [ExShape, exHalt] at h
    split at h <;> exact ⟨_, h, by constructor <;> rfl, by constructor <;> (intros; rfl), rfl, rfl⟩
  | inert =>
    intro h
    exact ⟨_, h, by constructor <;> rfl, by constructor <;> (intros; rfl), rfl, rfl⟩
  | unrec =>
    intro h
    exact ⟨_, h, by constructor <;> rfl, by constructor <;> (intros; rfl), rfl, rfl⟩

/-- MEM, when it ends: the latch passed on, all but its own alone, and memory as it was or with one word written at
`EX_MEM.ALUOutput`, by a store only. -/
theorem memDo_next {c : MemClass} {s t : State} (h : memDo c s = .next t) :
    MemPassed s t ∧ MemKeeps s t ∧ t.stage = s.stage ∧ t.freeDraws = s.freeDraws ∧
    (t.mem = s.mem ∨ ((c = .storeb ∨ c = .storeh ∨ c = .storew) ∧
      ∃ v, write32 s.platform s.mem s.exMem.aluOutput v = .ok t.mem)) := by
  cases c <;> simp only [memDo] at h
  · cases h; exact ⟨by constructor <;> rfl, by constructor <;> rfl, rfl, rfl, .inl rfl⟩
  · obtain ⟨w, _, h⟩ := withRead_next.mp h
    cases h; exact ⟨by constructor <;> rfl, by constructor <;> rfl, rfl, rfl, .inl rfl⟩
  · obtain ⟨w, _, h⟩ := withRead_next.mp h
    cases h; exact ⟨by constructor <;> rfl, by constructor <;> rfl, rfl, rfl, .inl rfl⟩
  · obtain ⟨w, _, h⟩ := withRead_next.mp h
    cases h; exact ⟨by constructor <;> rfl, by constructor <;> rfl, rfl, rfl, .inl rfl⟩
  · obtain ⟨w, _, h⟩ := withRead_next.mp h
    obtain ⟨m, hm, rfl⟩ := memWrite_next.mp h
    exact ⟨by constructor <;> rfl, by constructor <;> rfl, rfl, rfl, .inr ⟨by simp, _, hm⟩⟩
  · obtain ⟨w, _, h⟩ := withRead_next.mp h
    obtain ⟨m, hm, rfl⟩ := memWrite_next.mp h
    exact ⟨by constructor <;> rfl, by constructor <;> rfl, rfl, rfl, .inr ⟨by simp, _, hm⟩⟩
  · obtain ⟨m, hm, rfl⟩ := memWrite_next.mp h
    exact ⟨by constructor <;> rfl, by constructor <;> rfl, rfl, rfl, .inr ⟨by simp, _, hm⟩⟩
  · cases h; exact ⟨by constructor <;> rfl, by constructor <;> rfl, rfl, rfl, .inl rfl⟩

/-- WB always ends, and touches only the registers of `NXT`, the counter and its report. -/
theorem wbDo_next (c : WbClass) (s : State) :
    ∃ t, wbDo c s = .next t ∧ WbKeeps s t ∧ t.mem = s.mem ∧ t.stage = s.stage ∧ t.freeDraws = s.freeDraws ∧
      (∀ r, t.nxt.reg r = match c with
        | .writeAlu => if r = s.memWb.dest then s.memWb.aluOutput else s.nxt.reg r
        | .writeLmd => if r = s.memWb.dest then s.memWb.lmd else s.nxt.reg r
        | .none => s.nxt.reg r
        | .unrec => s.nxt.reg r) := by
  have hc : (wbCount s).instrCount = s.instrCount + (if s.memWb.ir = 0 then 0 else 1) := by
    simp only [wbCount_instrCount]; split <;> rfl
  cases c
  · exact ⟨_, rfl, by constructor <;> first | exact hc | (intros; rfl), rfl, rfl, rfl,
      fun r => reg_setReg _ _ _ _⟩
  · exact ⟨_, rfl, by constructor <;> first | exact hc | (intros; rfl), rfl, rfl, rfl,
      fun r => reg_setReg _ _ _ _⟩
  · exact ⟨_, rfl, by constructor <;> first | exact hc | (intros; rfl), rfl, rfl, rfl,
      fun r => rfl⟩
  · exact ⟨_, rfl, by constructor <;> first | exact hc | (intros; rfl), rfl, rfl, rfl,
      fun r => rfl⟩

/-- A cycle that ends, taken apart: the three engines, the two instruction reads (of memory as MEM left it), the
commit. -/
theorem cycle_next {s t : State} (h : cycle s = .next t) :
    ∃ s₁ s₂ s₃ w f, wbEngine (clearReports s) = .next s₁ ∧ memEngine s₁ = .next s₂ ∧ exEngine s₂ = .next s₃ ∧
      read32 s₃.platform s₃.mem s₃.ifId.pc = .ok w ∧ read32 s₃.platform s₃.mem s₃.cur.pc = .ok f ∧
      t = commit ({ s₃ with idEx := decodedLatch w s₃.ifId.pc s₃.cur, ifId := ⟨f, s₃.cur.pc⟩ }.writePc (s₃.cur.pc + 4)) := by
  obtain ⟨s₁, h1, h⟩ := andThen_next.mp h
  obtain ⟨s₂, h2, h⟩ := andThen_next.mp h
  obtain ⟨s₃, h3, h⟩ := andThen_next.mp h
  obtain ⟨s₄, h4, h⟩ := andThen_next.mp h
  obtain ⟨s₅, h5, h⟩ := andThen_next.mp h
  obtain ⟨w, hw, h4⟩ := withRead_next.mp h4
  cases h4
  obtain ⟨f, hf, h5⟩ := withRead_next.mp h5
  cases h5
  cases h
  exact ⟨s₁, s₂, s₃, w, f, h1, h2, h3, hw, hf, rfl⟩

/-- A step of a running core is a cycle. -/
theorem step_running {s : State} (h : s.run = true) : step s = cycle s := by simp [step, clockEdge, h]

/-- A step of a halted core changes nothing. -/
theorem step_halted {s : State} (h : s.run = false) : step s = .next s := by simp [step, clockEdge, h]

end Sys2Proof.Machine
end

