-- ==== Sys2Proof/Tests/Slice0.lean ====
section
/-! SUPPORT. Tests on fixed values, each expected value from spec/ (the word or vector is named), the checks of
WellFormed on ill-formed terms, and a witness of the hypotheses of each statement. -/

namespace Sys2Proof.Tests

open Sys2Proof.Machine

/-! Decoding: a word of each constructor, from the examples of files 41 to 47 and 96_derived_vectors.md. -/

theorem test_decode_sll : decode 0x03E11100 = .ok (.sll 31 1 2 4) := by decide
theorem test_decode_srl : decode 0x00011102 = .ok (.srl 0 1 2 4) := by decide
theorem test_decode_sra : decode 0x000117C3 = .ok (.sra 0 1 2 31) := by decide
theorem test_decode_jr : decode 0x03E00008 = .ok (.jr 31 0 0 0) := by decide
theorem test_decode_jalr : decode 0x0020F809 = .ok (.jalr 1 0 31 0) := by decide
theorem test_decode_syscall : decode 0x03FFFFCC = .ok (.syscall 0xFFFFF) := by decide
theorem test_decode_mfhi : decode 0x00001810 = .ok (.mfhi 0 0 3 0) := by decide
theorem test_decode_mthi : decode 0x00200011 = .ok (.mthi 1 0 0 0) := by decide
theorem test_decode_mflo : decode 0x00001812 = .ok (.mflo 0 0 3 0) := by decide
theorem test_decode_mtlo : decode 0x00200013 = .ok (.mtlo 1 0 0 0) := by decide
theorem test_decode_mult : decode 0x00220018 = .ok (.mult 1 2 0 0) := by decide
theorem test_decode_multu : decode 0x00220019 = .ok (.multu 1 2 0 0) := by decide
theorem test_decode_div : decode 0x0022001A = .ok (.div 1 2 0 0) := by decide
theorem test_decode_divu : decode 0x0022001B = .ok (.divu 1 2 0 0) := by decide
theorem test_decode_add : decode 0x00221820 = .ok (.add 1 2 3 0) := by decide
theorem test_decode_addu : decode 0x00221FE1 = .ok (.addu 1 2 3 31) := by decide
theorem test_decode_sub : decode 0x00221822 = .ok (.sub 1 2 3 0) := by decide
theorem test_decode_subu : decode 0x00221823 = .ok (.subu 1 2 3 0) := by decide
theorem test_decode_and : decode 0x00221824 = .ok (.and 1 2 3 0) := by decide
theorem test_decode_or : decode 0x00221825 = .ok (.or 1 2 3 0) := by decide
theorem test_decode_xor : decode 0x00221826 = .ok (.xor 1 2 3 0) := by decide
theorem test_decode_nor : decode 0x00221827 = .ok (.nor 1 2 3 0) := by decide
theorem test_decode_slt : decode 0x0022182A = .ok (.slt 1 2 3 0) := by decide
theorem test_decode_bltz : decode 0x04200003 = .ok (.bltz 1 3) := by decide
theorem test_decode_bgez : decode 0x04210003 = .ok (.bgez 1 3) := by decide
theorem test_decode_j : decode 0x08100040 = .ok (.j 0x100040) := by decide
theorem test_decode_jal : decode 0x0C100000 = .ok (.jal 0x100000) := by decide
theorem test_decode_beq : decode 0x1022FFFF = .ok (.beq 1 2 0xFFFF) := by decide
theorem test_decode_bne : decode 0x14220003 = .ok (.bne 1 2 3) := by decide
theorem test_decode_blez : decode 0x18200003 = .ok (.blez 1 0 3) := by decide
theorem test_decode_bgtz : decode 0x1C200003 = .ok (.bgtz 1 0 3) := by decide
theorem test_decode_addi : decode 0x2022FFFF = .ok (.addi 1 2 0xFFFF) := by decide
theorem test_decode_addiu : decode 0x24010005 = .ok (.addiu 0 1 5) := by decide
theorem test_decode_slti : decode 0x2822FFFF = .ok (.slti 1 2 0xFFFF) := by decide
theorem test_decode_andi : decode 0x3022FF00 = .ok (.andi 1 2 0xFF00) := by decide
theorem test_decode_ori : decode 0x34228000 = .ok (.ori 1 2 0x8000) := by decide
theorem test_decode_xori : decode 0x3822FFFF = .ok (.xori 1 2 0xFFFF) := by decide
theorem test_decode_lui : decode 0x3C221001 = .ok (.lui 1 2 0x1001) := by decide
theorem test_decode_lb : decode 0x80220004 = .ok (.lb 1 2 4) := by decide
theorem test_decode_lh : decode 0x84220004 = .ok (.lh 1 2 4) := by decide
theorem test_decode_lw : decode 0x8C220004 = .ok (.lw 1 2 4) := by decide
theorem test_decode_sb : decode 0xA0220004 = .ok (.sb 1 2 4) := by decide
theorem test_decode_sh : decode 0xA4220004 = .ok (.sh 1 2 4) := by decide
theorem test_decode_sw : decode 0xAC22FFFC = .ok (.sw 1 2 0xFFFC) := by decide

/-! Words of 96_derived_vectors.md V157 to V165 that are no instruction, and too few bytes. -/

theorem test_decode_break : decode 0x0000000D = .error (.funct 0x0D) := by decide
theorem test_decode_sltu : decode 0x0022182B = .error (.funct 0x2B) := by decide
theorem test_decode_bgezal : decode 0x04310003 = .error (.regimm 0x11) := by decide
theorem test_decode_sltiu : decode 0x2C220001 = .error (.opcode 0x0B) := by decide
theorem test_decode_ones : decode 0xFFFFFFFF = .error (.opcode 0x3F) := by decide
theorem test_decode_three_bytes : decodeBytes [0x05, 0x00, 0x01] = .error .truncated := by decide
theorem test_decode_bytes : decodeBytes [0x05, 0x00, 0x01, 0x24, 0xFF] = .ok (.addiu 0 1 5, [0xFF]) := by decide
theorem test_table_word : decodeTableWord 32 0xAC220004 = some (.sw 1 2 4) := by decide

/-! WellFormed: what each check refuses. -/

theorem test_canonical_refuses : [Instr.sll 1 0 0 0, .srl 1 0 0 0, .sra 1 0 0 0, .jr 0 1 0 0, .jr 0 0 1 0, .jr 0 0 0 1,
    .jalr 0 1 0 0, .jalr 0 0 0 1, .syscall 1, .mfhi 1 0 0 0, .mfhi 0 1 0 0, .mfhi 0 0 0 1, .mthi 0 1 0 0, .mthi 0 0 1 0,
    .mthi 0 0 0 1, .mflo 1 0 0 0, .mflo 0 1 0 0, .mflo 0 0 0 1, .mtlo 0 1 0 0, .mtlo 0 0 1 0, .mtlo 0 0 0 1,
    .mult 0 0 1 0, .mult 0 0 0 1, .multu 0 0 1 0, .multu 0 0 0 1, .div 0 0 1 0, .div 0 0 0 1, .divu 0 0 1 0,
    .divu 0 0 0 1].all (fun i => !i.canonical) = true := by decide

theorem test_canonical_refuses_more : [Instr.add 0 0 0 1, .addu 0 0 0 1, .sub 0 0 0 1, .subu 0 0 0 1, .and 0 0 0 1,
    .or 0 0 0 1, .xor 0 0 0 1, .nor 0 0 0 1, .slt 0 0 0 1, .blez 0 1 0, .bgtz 0 1 0,
    .lui 1 0 0].all (fun i => !i.canonical) = true := by decide

/-- A region that ends before it begins. -/
theorem test_platform_ranged : ¬ Platform.ranged ⟨[⟨8, 7⟩, ⟨16, 31⟩], 8⟩ := by decide
/-- Two regions that share an address. -/
theorem test_platform_disjoint : ¬ Platform.disjoint ⟨[⟨0, 7⟩, ⟨7, 15⟩], 0⟩ := by decide
/-- No region begins at TEXT_BASE. -/
theorem test_platform_hasText : ¬ Platform.hasText ⟨[⟨0, 7⟩, ⟨8, 15⟩], 4⟩ := by decide
/-- No region beside the text region. -/
theorem test_platform_hasData : ¬ Platform.hasData ⟨[⟨0, 7⟩], 0⟩ := by decide
theorem test_platform_wf : resetPlatform.wf := by decide

/-! States with one instruction in one stage. -/

/-- The reset machine in EX, with the word `w` in `ID_EX` and the operands `a`, `b`. -/
def atEx (w a b : Word) : State :=
  { State.reset with stage := .ex, idEx := { decodedLatch w 0x00400000 State.reset.cur with a := a, b := b } }

/-- The reset machine in MEM, with the word `w` in `EX_MEM`, the address `ea`, the operand `b` and the memory `m`. -/
def atMem (w ea b : Word) (m : Memory) : State :=
  { State.reset with
    stage := .mem
    mem := m
    memWb := { State.reset.memWb with lmd := 0xFFFF80FF }
    exMem := ⟨w, 0x00400000, (fieldsOf w).opcode, (fieldsOf w).funct, 0, b,
      if (fieldsOf w).opcode = 0 then (fieldsOf w).rd else (fieldsOf w).rt, ea⟩ }

/-- The reset machine in WB, with the word `w` in `MEM_WB`, its `ALUOutput` and its `LMD`. -/
def atWb (w alu lmd : Word) : State :=
  { State.reset with
    memWb := ⟨w, 0x00400000, (fieldsOf w).opcode, (fieldsOf w).funct,
      if (fieldsOf w).opcode = 0 then (fieldsOf w).rd else (fieldsOf w).rt, alu, lmd⟩ }

/-- Whether a result is a next state that passes a check. -/
def ends (r : Result) (p : State → Bool) : Bool :=
  match r with
  | .next t => p t
  | .fault _ => false
  | .refused _ => false

/-- Whether a result is a region overrun. -/
def overruns (r : Result) : Bool :=
  match r with
  | .next _ => false
  | .fault .regionOverrun => true
  | .refused _ => false

/-- The state a result ends in. -/
def endOf (r : Result) : State :=
  match r with
  | .next t => t
  | .fault _ => State.reset
  | .refused _ => State.reset

theorem next_endOf {r : Result} (h : ends r (fun _ => true) = true) : r = .next (endOf r) := by
  cases r <;> simp_all [ends, endOf]

/-- The word 0x11223344 at 0x10010004 (45_load_store.md). -/
def sample : Memory := [(0x10010004, 0x44), (0x10010005, 0x33), (0x10010006, 0x22), (0x10010007, 0x11)]

/-! What each instruction does in the stage that tells it apart (the vector is named). -/

/-- V1 -/
theorem test_sll : ends (exec (.sll 0 1 2 4) (atEx 0x00011100 0 0x80000001)) (fun t => t.exMem.aluOutput == 0x00000010 && t.exMem.dest == 2) = true := by decide
/-- V8 -/
theorem test_srl : ends (exec (.srl 0 1 2 4) (atEx 0x00011102 0 0x80000001)) (fun t => t.exMem.aluOutput == 0x08000000) = true := by decide
/-- V15 -/
theorem test_sra : ends (exec (.sra 0 1 2 4) (atEx 0x00011103 0 0x80000001)) (fun t => t.exMem.aluOutput == 0xF8000000) = true := by decide
/-- V25 -/
theorem test_mthi : ends (exec (.mthi 1 0 0 0) (atEx 0x00200011 0xCAFE0001 0)) (fun t => t.nxt.hi == 0xCAFE0001 && t.nxt.lo == 0 && t.exMem.aluOutput == 0) = true := by decide
/-- V26 -/
theorem test_mtlo : ends (exec (.mtlo 1 0 0 0) (atEx 0x00200013 0xCAFE0001 0)) (fun t => t.nxt.lo == 0xCAFE0001 && t.nxt.hi == 0) = true := by decide
/-- V31 -/
theorem test_mult : ends (exec (.mult 1 2 0 0) (atEx 0x00220018 0x80000000 0x7FFFFFFF)) (fun t => t.nxt.hi == 0xC0000000 && t.nxt.lo == 0x80000000) = true := by decide
/-- V34 -/
theorem test_multu : ends (exec (.multu 1 2 0 0) (atEx 0x00220019 0xFFFFFFFE 3)) (fun t => t.nxt.hi == 2 && t.nxt.lo == 0xFFFFFFFA) = true := by decide
/-- V40 -/
theorem test_div : ends (exec (.div 1 2 0 0) (atEx 0x0022001A 0xFFFFFFF9 2)) (fun t => t.nxt.hi == 0xFFFFFFFF && t.nxt.lo == 0xFFFFFFFD) = true := by decide
/-- U2: the open case completes; nothing is said of HI and LO. -/
theorem test_div_open : ends (exec (.div 1 2 0 0) (atEx 0x0022001A 0x80000000 0xFFFFFFFF))
    (fun t => t.run && t.exMem.aluOutput == 0) = true := by decide
/-- V50 -/
theorem test_divu : ends (exec (.divu 1 2 0 0) (atEx 0x0022001B 0x80000000 0xFFFFFFFF)) (fun t => t.nxt.hi == 0x80000000 && t.nxt.lo == 0) = true := by decide
/-- V59 -/
theorem test_add : ends (exec (.add 1 2 3 0) (atEx 0x00221820 0x7FFFFFFF 1)) (fun t => t.exMem.aluOutput == 0x80000000 && t.exMem.dest == 3) = true := by decide
/-- V64 -/
theorem test_addu : ends (exec (.addu 1 2 3 0) (atEx 0x00221821 0xFFFFFFFF 0xFFFFFFFF)) (fun t => t.exMem.aluOutput == 0xFFFFFFFE) = true := by decide
/-- V65 -/
theorem test_sub : ends (exec (.sub 1 2 3 0) (atEx 0x00221822 3 7)) (fun t => t.exMem.aluOutput == 0xFFFFFFFC) = true := by decide
/-- V71 -/
theorem test_subu : ends (exec (.subu 1 2 3 0) (atEx 0x00221823 0 1)) (fun t => t.exMem.aluOutput == 0xFFFFFFFF) = true := by decide
/-- V72 -/
theorem test_and : ends (exec (.and 1 2 3 0) (atEx 0x00221824 0xF0F0F0F0 0xFF00FF00)) (fun t => t.exMem.aluOutput == 0xF000F000) = true := by decide
/-- V74 -/
theorem test_or : ends (exec (.or 1 2 3 0) (atEx 0x00221825 0xF0F0F0F0 0xFF00FF00)) (fun t => t.exMem.aluOutput == 0xFFF0FFF0) = true := by decide
/-- V76 -/
theorem test_xor : ends (exec (.xor 1 2 3 0) (atEx 0x00221826 0xF0F0F0F0 0xFF00FF00)) (fun t => t.exMem.aluOutput == 0x0FF00FF0) = true := by decide
/-- V78 -/
theorem test_nor : ends (exec (.nor 1 2 3 0) (atEx 0x00221827 0xF0F0F0F0 0xFF00FF00)) (fun t => t.exMem.aluOutput == 0x000F000F) = true := by decide
/-- V84 -/
theorem test_slt : ends (exec (.slt 1 2 3 0) (atEx 0x0022182A 0xFFFFFFFF 1)) (fun t => t.exMem.aluOutput == 0) = true := by decide
/-- V93 -/
theorem test_addi : ends (exec (.addi 1 2 0x8000) (atEx 0x20228000 0x80000000 0)) (fun t => t.exMem.aluOutput == 0x7FFF8000 && t.exMem.dest == 2) = true := by decide
/-- V98 -/
theorem test_addiu : ends (exec (.addiu 1 2 0x8000) (atEx 0x24228000 0 0)) (fun t => t.exMem.aluOutput == 0xFFFF8000) = true := by decide
/-- V102 -/
theorem test_slti : ends (exec (.slti 1 2 0) (atEx 0x28220000 0xFFFFFFFF 0)) (fun t => t.exMem.aluOutput == 1) = true := by decide
/-- V107 -/
theorem test_andi : ends (exec (.andi 1 2 0xFF00) (atEx 0x3022FF00 0x12345678 0)) (fun t => t.exMem.aluOutput == 0x00005600) = true := by decide
/-- V110 -/
theorem test_ori : ends (exec (.ori 1 2 0x8000) (atEx 0x34228000 0x12340000 0)) (fun t => t.exMem.aluOutput == 0x12348000) = true := by decide
/-- V112 -/
theorem test_xori : ends (exec (.xori 1 2 0xFFFF) (atEx 0x3822FFFF 0x12345678 0)) (fun t => t.exMem.aluOutput == 0x1234A987) = true := by decide
/-- V114 -/
theorem test_lui : ends (exec (.lui 0 2 0x1001) (atEx 0x3C021001 0 0)) (fun t => t.exMem.aluOutput == 0x10010000) = true := by decide
/-- V120 -/
theorem test_sw_address : ends (exec (.sw 1 2 0xFFFC) (atEx 0xAC22FFFC 0x10010008 0)) (fun t => t.exMem.aluOutput == 0x10010004) = true := by decide
/-- V56: the value of CUR.HI -/
theorem test_mfhi : ends (exec (.mfhi 0 0 3 0) { hostSetHi 0x12345678 State.reset with stage := .ex }) (fun t => t.exMem.aluOutput == 0x12345678) = true := by decide
/-- V57: the value of CUR.LO -/
theorem test_mflo : ends (exec (.mflo 0 0 3 0) { hostSetLo 0x9ABCDEF0 State.reset with stage := .ex }) (fun t => t.exMem.aluOutput == 0x9ABCDEF0) = true := by decide
/-- V156: all of register 2, any code -/
theorem test_syscall : ends (exec (.syscall 0xFFFFF) { hostSetRegister 2 0xA State.reset with stage := .ex }) (fun t => !t.run) = true := by decide
/-- V155 -/
theorem test_syscall_other : ends (exec (.syscall 0) { hostSetRegister 2 0x8000000A State.reset with stage := .ex }) (fun t => t.run) = true := by decide
/-- V130: the byte 0x91 at an odd address -/
theorem test_lb : ends (exec (.lb 1 2 7) (atMem 0x80220007 0x10010007 0 [(0x10010007, 0x91)])) (fun t => t.memWb.lmd == 0xFFFFFF91) = true := by decide
/-- V133: the half-word 0xF280 at an odd address -/
theorem test_lh : ends (exec (.lh 1 2 5) (atMem 0x84220005 0x10010005 0 [(0x10010005, 0x80), (0x10010006, 0xF2)])) (fun t => t.memWb.lmd == 0xFFFFF280) = true := by decide
/-- R167: the word to ALUOutput, LMD stale -/
theorem test_lw : ends (exec (.lw 1 2 4) (atMem 0x8C220004 0x10010004 0 sample)) (fun t => t.memWb.aluOutput == 0x11223344 && t.memWb.lmd == 0xFFFF80FF) = true := by decide
/-- R167: the stale LMD to rt -/
theorem test_lw_writeback : ends (exec (.lw 1 2 4) (atWb 0x8C220004 0x11223344 0xFFFF80FF)) (fun t => t.nxt.reg 2 == 0xFFFF80FF) = true := by decide
/-- V123 -/
theorem test_sb : ends (exec (.sb 1 2 5) (atMem 0xA0220005 0x10010005 0x123456AB sample)) (fun t => t.mem == [(0x10010004, 0x44), (0x10010005, 0xAB), (0x10010006, 0x22), (0x10010007, 0x11)]) = true := by decide
/-- V126 -/
theorem test_sh : ends (exec (.sh 1 2 6) (atMem 0xA4220006 0x10010006 0x123456AB sample)) (fun t => t.mem == [(0x10010004, 0x44), (0x10010005, 0x33), (0x10010006, 0xAB), (0x10010007, 0x56)]) = true := by decide
/-- V121: unaligned, and zero bytes not listed -/
theorem test_sw : ends (exec (.sw 1 2 2) (atMem 0xAC220002 0x10010002 0xAABB00DD [])) (fun t => t.mem == [(0x10010002, 0xDD), (0x10010004, 0xBB), (0x10010005, 0xAA)]) = true := by decide
/-- T10: the last three bytes of a region -/
theorem test_sb_overrun : overruns (exec (.sb 1 2 0) (atMem 0xA0220000 0x7FFFFFFD 0 [])) = true := by decide
/-- V139 -/
theorem test_sw_unmapped : ends (exec (.sw 0 2 0x100) (atMem 0xAC020100 0x100 5 [])) (fun t => t.mem == []) = true := by decide
/-- V141 to V151: reported by MEM -/
theorem test_j_reported : ends (exec (.j 0x100040) (atMem 0x08100040 0 0 [])) (fun t => t.reports == ⟨false, true, false⟩) = true := by decide
/-- V141 to V151: reported by MEM -/
theorem test_jal_reported : ends (exec (.jal 0x100040) (atMem 0x0C100040 0 0 [])) (fun t => t.reports == ⟨false, true, false⟩) = true := by decide
/-- V141 to V151: reported by MEM -/
theorem test_beq_reported : ends (exec (.beq 1 2 3) (atMem 0x10220003 0 0 [])) (fun t => t.reports == ⟨false, true, false⟩) = true := by decide
/-- V141 to V151: reported by MEM -/
theorem test_bne_reported : ends (exec (.bne 1 2 3) (atMem 0x14220003 0 0 [])) (fun t => t.reports == ⟨false, true, false⟩) = true := by decide
/-- V141 to V151: reported by MEM -/
theorem test_blez_reported : ends (exec (.blez 1 0 3) (atMem 0x18200003 0 0 [])) (fun t => t.reports == ⟨false, true, false⟩) = true := by decide
/-- V141 to V151: reported by MEM -/
theorem test_bgtz_reported : ends (exec (.bgtz 1 0 3) (atMem 0x1C200003 0 0 [])) (fun t => t.reports == ⟨false, true, false⟩) = true := by decide
/-- V141 to V151: reported by MEM -/
theorem test_bltz_reported : ends (exec (.bltz 1 3) (atMem 0x04200003 0 0 [])) (fun t => t.reports == ⟨false, true, false⟩) = true := by decide
/-- V141 to V151: reported by MEM -/
theorem test_bgez_reported : ends (exec (.bgez 1 3) (atMem 0x04210003 0 0 [])) (fun t => t.reports == ⟨false, true, false⟩) = true := by decide
/-- V143: passed, no report -/
theorem test_jr : ends (exec (.jr 1 0 0 0) (atMem 0x00200008 7 0 [])) (fun t => t.reports == ⟨false, false, false⟩ && t.memWb.aluOutput == 7) = true := by decide
/-- V144: no link -/
theorem test_jalr : ends (exec (.jalr 1 0 31 0) (atWb 0x0020F809 7 7)) (fun t => t.nxt.reg 31 == 0) = true := by decide
/-- V114: reported by WB, not written -/
theorem test_lui_reported : ends (exec (.lui 0 2 0x1001) (atWb 0x3C021001 7 7)) (fun t => t.reports == ⟨false, false, true⟩ && t.nxt.reg 2 == 0) = true := by decide
/-- V88: register 0 is written -/
theorem test_addu_zero : ends (exec (.addu 1 2 0 0) (atWb 0x00220021 10 0)) (fun t => t.nxt.reg 0 == 10) = true := by decide

/-! One step. -/

/-- T8: the placed word is executed -/
theorem test_fetch_word : ends (step (State.reset.withFetchWord 32 0x24010005)) (fun t => t.exMem.aluOutput == 5 && t.exMem.dest == 1) = true := by decide
/-- P1, cycle 1: the program word is fetched, address 0 decoded -/
theorem test_first_cycle : ends (hostBoot [0x24010005] State.reset) (fun s => ends (step s) (fun t => t.ifId == ⟨0x24010005, 0x00400000⟩ && t.idEx.ir == 0 && t.cur.pc == 0x00400004)) = true := by decide
/-- V161: LBU in EX is reported -/
theorem test_unrecognised_step : ends (step (State.reset.withFetchWord 32 0x90220000)) (fun t => t.reports == ⟨true, false, false⟩) = true := by decide

/-! Witnesses: for each statement with hypotheses, values that meet them, clause by clause. -/

/-- A running state with `w` in EX, as the next step finds it. -/
def running (w : Word) : State := State.reset.withWordInExecute w

/-- A running state with `w` in MEM, and the address `ea`. -/
def runningMem (w ea b : Word) (m : Memory) : State := { atMem w ea b m with stage := .wb }

theorem noOverrun_zero : resetPlatform.noOverrun 0 := fun _ h => by cases h
theorem noOverrun_text : resetPlatform.noOverrun 0x00400000 := fun _ h => by cases h; decide
theorem noOverrun_end : resetPlatform.noOverrun 0x7FFFFFFC := fun _ h => by cases h; decide
theorem overrun_end : ¬ resetPlatform.noOverrun 0x7FFFFFFD := fun h => absurd (h _ rfl) (by decide)

theorem witness_TableRowsSelect : decode 0x00221FE1 = .ok (.addu 1 2 3 31) ∧
    (0x00221FE1 : Word) &&& (Instr.addu 0 0 0 0).row.mask = (Instr.addu 0 0 0 0).row.bits := by decide

theorem witness_UnmappedAccess : resetPlatform.regionOf 0 = none ∧ State.reset.platform = resetPlatform := by decide

/-- Unmapped below a region; the last address without overrun; the first with. -/
theorem witness_ReadIsLittleEndian : resetPlatform.regionOf 0x003FFFFF = none ∧
    resetPlatform.regionOf 0x7FFFFFFC = some ⟨0x10010000, 0x7FFFFFFF⟩ ∧ (0x7FFFFFFC : Word).toNat + 3 ≤ (0x7FFFFFFF : Word).toNat ∧
    resetPlatform.regionOf 0x7FFFFFFD = some ⟨0x10010000, 0x7FFFFFFF⟩ ∧ (0x7FFFFFFF : Word).toNat < (0x7FFFFFFD : Word).toNat + 3 := by decide

theorem witness_WriteIsLittleEndian : sample.wf ∧ resetPlatform.regionOf 0x80000000 = none ∧
    resetPlatform.regionOf 0x7FFFFFFC = some ⟨0x10010000, 0x7FFFFFFF⟩ ∧ (0x7FFFFFFC : Word).toNat + 3 ≤ (0x7FFFFFFF : Word).toNat ∧
    resetPlatform.regionOf 0x7FFFFFFD = some ⟨0x10010000, 0x7FFFFFFF⟩ ∧ (0x7FFFFFFF : Word).toNat < (0x7FFFFFFD : Word).toNat + 3 := by decide

theorem witness_OverrunNeverAligned : resetPlatform.noOverrun 0x7FFFFFFC ∧ ¬ resetPlatform.noOverrun 0x7FFFFFFD ∧
    (∀ r ∈ resetPlatform.regions, r.first.toNat % 4 = 0 ∧ (r.last.toNat + 1 - r.first.toNat) % 4 = 0) ∧
    (0x7FFFFFFC : Word).toNat % 4 = 0 := ⟨noOverrun_end, overrun_end, by decide, by decide⟩

theorem witness_MemoryRoundTrip : sample.wf ∧ resetPlatform.noOverrun 0x7FFFFFFC ∧
    resetPlatform.regionOf 0x7FFFFFFC = some ⟨0x10010000, 0x7FFFFFFF⟩ ∧ resetPlatform.regionOf 0x80000000 = none :=
  ⟨by decide, noOverrun_end, by decide, by decide⟩

theorem witness_LoadWordsFillsText : State.reset.mem.wf ∧
    (∀ i, i < [(7 : Word), 8].length → State.reset.platform.regionOf (State.reset.platform.textBase + BitVec.ofNat 32 (4 * i)) =
      some ⟨0x00400000, 0x0FFFFFFF⟩) ∧
    State.reset.platform.textBase.toNat + 4 * [(7 : Word), 8].length ≤ (0x0FFFFFFF : Word).toNat + 1 ∧
    [(7 : Word), 8][1]? = some 8 := by decide

theorem witness_StepRunsTheLatchedInstructions : State.reset.run = true ∧ State.reset.memWb.instr = .ok (.sll 0 0 0 0) ∧
    State.reset.exMem.instr = .ok (.sll 0 0 0 0) ∧ State.reset.idEx.instr = .ok (.sll 0 0 0 0) := by decide

theorem witness_FetchWordRunsNext : decode 0x24010005 = .ok (.addiu 0 1 5) ∧
    ends (step (State.reset.withFetchWord 32 (0x24010005 : Word).toNat)) (fun t => t.exMem.aluOutput == 5) = true := by decide

theorem witness_CommitCopiesNext : ends (wbEngine State.reset) (fun _ => true) = true ∧
    ends (memEngine State.reset) (fun _ => true) = true ∧ ends (exEngine State.reset) (fun _ => true) = true ∧
    ends (idStage State.reset) (fun _ => true) = true ∧ ends (ifStage State.reset) (fun _ => true) = true ∧
    State.reset.run = true ∧ ends (step State.reset) (fun _ => true) = true := by decide

theorem witness_FetchAdvancesSequentially : State.reset.memRead State.reset.cur.pc = .ok 0 := by decide

theorem witness_DecodeExtractsAllFields :
    { State.reset with ifId := ⟨0, 0x10010004⟩, mem := sample }.memRead 0x10010004 = .ok 0x11223344 := by decide

theorem witness_ExecuteFollowsItsClassTable : exClass 0x02 0x00 0x00 = .inert ∧ exClass 0x00 0x0C 0x00 = .halt ∧
    exClass 0x00 0x18 0x00 = .hilo ∧ exClass 0x01 0x00 0x02 = .unrec ∧ exClass 0x2B 0x00 0x00 = .compute ∧
    (memClass 0x2B).accesses = true ∧ wbClass 0x00 0x27 = .writeAlu := by decide

/-- Each class of MEM on a readable address, and an overrun in a class that makes an access. -/
theorem witness_MemoryStageFollowsItsClassTable :
    memClass 0x0F = .pass ∧ memClass 0x01 = .unrec ∧ memClass 0x20 = .loadb ∧ memClass 0x21 = .loadh ∧
    memClass 0x23 = .loadw ∧ memClass 0x28 = .storeb ∧ memClass 0x29 = .storeh ∧ memClass 0x2B = .storew ∧
    (atMem 0xAC220004 0x10010004 0 sample).memRead 0x10010004 = .ok 0x11223344 ∧
    (atMem 0xA0220000 0x7FFFFFFD 0 []).memRead 0x7FFFFFFD = .error .regionOverrun ∧ (memClass 0x28).accesses = true ∧
    ends (memEngine (atMem 0xAC220004 0x10010004 0 sample)) (fun _ => true) = true ∧
    ends (wbEngine State.reset) (fun _ => true) = true := by decide

theorem witness_InstructionCounterRule :
    { atWb 0x24010005 5 0 with run := true }.memWb.ir ≠ 0 ∧ State.reset.memWb.ir = 0 ∧
    ends (step (atWb 0x24010005 5 0)) (fun t => t.instrCount == 1) = true ∧
    ends (step State.reset) (fun t => t.instrCount == 0) = true := by decide

/-- The hypotheses "a running core takes a step", which most whole-machine statements have. -/
theorem witness_step : State.reset.run = true ∧ step State.reset = .next (endOf (step State.reset)) :=
  ⟨rfl, next_endOf (by decide)⟩

theorem witness_HaltedCoreKeepsItsState : { State.reset with run := false }.run = false := rfl

theorem witness_RunStopsAtTheHalt : runFor 2 State.reset = .next (endOf (runFor 2 State.reset)) ∧
    (endOf (runFor 2 State.reset)).run = true := ⟨next_endOf (by decide), by decide⟩

/-- A run to completion: a SYSCALL with 0xA in register 2, in EX. -/
theorem witness_runsToCompletion : runsToCompletion (hostSetRegister 2 0xA (running 0x0000000C))
    (endOf (step (hostSetRegister 2 0xA (running 0x0000000C)))) :=
  ⟨1, next_endOf (by decide), by decide⟩

theorem noOverrun_reset : State.reset.noOverrun := ⟨fun h => absurd h (by decide), noOverrun_zero, noOverrun_text⟩

theorem witness_StepEndsUnlessOverrun : State.reset.run = true ∧ State.reset.noOverrun ∧
    (runningMem 0xA0220000 0x7FFFFFFD 0 []).run = true ∧ ¬ (runningMem 0xA0220000 0x7FFFFFFD 0 []).noOverrun :=
  ⟨rfl, noOverrun_reset, rfl, fun h => overrun_end (h.1 (by decide))⟩

theorem witness_UnrecognisedWordsDoNothing : (atEx 0x0000000D 0 0).idEx.instr = .error (.funct 0x0D) ∧
    (atMem 0x0000000D 0 0 []).exMem.instr = .error (.funct 0x0D) ∧ (atMem 0x0000000D 0 0 []).exMem.opcode = 0 ∧
    (atMem 0x90220000 0 0 []).exMem.instr = .error (.opcode 0x24) ∧ (atMem 0x90220000 0 0 []).exMem.opcode ≠ 0 ∧
    (atWb 0x0000000D 0 0).memWb.instr = .error (.funct 0x0D) ∧ (atWb 0x0000000D 0 0).memWb.opcode = 0 ∧
    (atWb 0x04310003 0 0).memWb.instr = .error (.regimm 0x11) ∧ (atWb 0x04310003 0 0).memWb.opcode ≠ 0 := by decide

theorem witness_PartlyRecognisedInstructions :
    ends (exec (.j 0) (atEx 0x08000000 0 0)) (fun _ => true) = true ∧ (atEx 0x08000000 0 0).stage = .ex ∧
    ends (exec (.j 0) (atMem 0x08000000 0 0 [])) (fun _ => true) = true ∧ (atMem 0x08000000 0 0 []).stage = .mem ∧
    ends (exec (.lui 0 2 0) (atWb 0x3C020000 0 0)) (fun _ => true) = true ∧ (atWb 0x3C020000 0 0).stage = .wb := by decide

/-! `Computes`: a state in EX whose latch holds the instruction, for each of class COMPUTE. -/

theorem witness_Computes_Shifts :
    (atEx 0x000117C0 1 2).stage = .ex ∧ (atEx 0x000117C0 1 2).idEx.instr = .ok (.sll 0 1 2 31) ∧
    (atEx 0x000117C2 1 2).stage = .ex ∧ (atEx 0x000117C2 1 2).idEx.instr = .ok (.srl 0 1 2 31) ∧
    (atEx 0x000117C3 1 2).stage = .ex ∧ (atEx 0x000117C3 1 2).idEx.instr = .ok (.sra 0 1 2 31) := by decide

theorem witness_Computes_MoveFromHiLo :
    (atEx 0x00001810 1 2).stage = .ex ∧ (atEx 0x00001810 1 2).idEx.instr = .ok (.mfhi 0 0 3 0) ∧
    (atEx 0x00001812 1 2).stage = .ex ∧ (atEx 0x00001812 1 2).idEx.instr = .ok (.mflo 0 0 3 0) := by decide

theorem witness_Computes_RegisterAlu :
    (atEx 0x00221820 1 2).stage = .ex ∧ (atEx 0x00221820 1 2).idEx.instr = .ok (.add 1 2 3 0) ∧
    (atEx 0x00221821 1 2).stage = .ex ∧ (atEx 0x00221821 1 2).idEx.instr = .ok (.addu 1 2 3 0) ∧
    (atEx 0x00221822 1 2).stage = .ex ∧ (atEx 0x00221822 1 2).idEx.instr = .ok (.sub 1 2 3 0) ∧
    (atEx 0x00221823 1 2).stage = .ex ∧ (atEx 0x00221823 1 2).idEx.instr = .ok (.subu 1 2 3 0) ∧
    (atEx 0x00221824 1 2).stage = .ex ∧ (atEx 0x00221824 1 2).idEx.instr = .ok (.and 1 2 3 0) ∧
    (atEx 0x00221825 1 2).stage = .ex ∧ (atEx 0x00221825 1 2).idEx.instr = .ok (.or 1 2 3 0) ∧
    (atEx 0x00221826 1 2).stage = .ex ∧ (atEx 0x00221826 1 2).idEx.instr = .ok (.xor 1 2 3 0) ∧
    (atEx 0x00221827 1 2).stage = .ex ∧ (atEx 0x00221827 1 2).idEx.instr = .ok (.nor 1 2 3 0) ∧
    (atEx 0x0022182A 1 2).stage = .ex ∧ (atEx 0x0022182A 1 2).idEx.instr = .ok (.slt 1 2 3 0) := by decide

theorem witness_Computes_Immediate :
    (atEx 0x20228000 1 2).stage = .ex ∧ (atEx 0x20228000 1 2).idEx.instr = .ok (.addi 1 2 0x8000) ∧
    (atEx 0x24228000 1 2).stage = .ex ∧ (atEx 0x24228000 1 2).idEx.instr = .ok (.addiu 1 2 0x8000) ∧
    (atEx 0x28228000 1 2).stage = .ex ∧ (atEx 0x28228000 1 2).idEx.instr = .ok (.slti 1 2 0x8000) ∧
    (atEx 0x30228000 1 2).stage = .ex ∧ (atEx 0x30228000 1 2).idEx.instr = .ok (.andi 1 2 0x8000) ∧
    (atEx 0x34228000 1 2).stage = .ex ∧ (atEx 0x34228000 1 2).idEx.instr = .ok (.ori 1 2 0x8000) ∧
    (atEx 0x38228000 1 2).stage = .ex ∧ (atEx 0x38228000 1 2).idEx.instr = .ok (.xori 1 2 0x8000) ∧
    (atEx 0x3C228000 1 2).stage = .ex ∧ (atEx 0x3C228000 1 2).idEx.instr = .ok (.lui 1 2 0x8000) := by decide

theorem witness_Computes_LoadStore :
    (atEx 0x80228000 1 2).stage = .ex ∧ (atEx 0x80228000 1 2).idEx.instr = .ok (.lb 1 2 0x8000) ∧
    (atEx 0x84228000 1 2).stage = .ex ∧ (atEx 0x84228000 1 2).idEx.instr = .ok (.lh 1 2 0x8000) ∧
    (atEx 0x8C228000 1 2).stage = .ex ∧ (atEx 0x8C228000 1 2).idEx.instr = .ok (.lw 1 2 0x8000) ∧
    (atEx 0xA0228000 1 2).stage = .ex ∧ (atEx 0xA0228000 1 2).idEx.instr = .ok (.sb 1 2 0x8000) ∧
    (atEx 0xA4228000 1 2).stage = .ex ∧ (atEx 0xA4228000 1 2).idEx.instr = .ok (.sh 1 2 0x8000) ∧
    (atEx 0xAC228000 1 2).stage = .ex ∧ (atEx 0xAC228000 1 2).idEx.instr = .ok (.sw 1 2 0x8000) := by decide

/-! The other instruction predicates ask for a state in one stage, whatever it holds. -/

/-- `InertInEx`, `SetsHiLo` without a condition, the halting and the other SYSCALL; the three cases of DIV. -/
theorem witness_stage_ex : (atEx 0x08000000 1 1).stage = .ex ∧ (atEx 0x00200011 1 1).stage = .ex ∧
    { hostSetRegister 2 0xA State.reset with stage := .ex }.cur.reg 2 = 0x0000000A ∧
    { State.reset with stage := .ex }.cur.reg 2 ≠ 0x0000000A ∧
    (atEx 0x0022001A 7 0).idEx.b = 0 ∧
    ((atEx 0x0022001A 0x80000000 0xFFFFFFFF).idEx.a = 0x80000000 ∧ (atEx 0x0022001A 0x80000000 0xFFFFFFFF).idEx.b = 0xFFFFFFFF) ∧
    ((atEx 0x0022001A 0x80000000 1).idEx.b ≠ 0 ∧
      ¬ ((atEx 0x0022001A 0x80000000 1).idEx.a = 0x80000000 ∧ (atEx 0x0022001A 0x80000000 1).idEx.b = 0xFFFFFFFF)) ∧
    (atEx 0x0022001B 7 0).idEx.b = 0 ∧ (atEx 0x0022001B 7 1).idEx.b ≠ 0 := by decide

/-- `PassesMem`, `ReportedByMem`, `LoadsInMem`, `StoresInMem`: in MEM, canonical memory, an address without overrun
(mapped, at the end of a region; unmapped), one with overrun. -/
theorem witness_stage_mem : (atMem 0xAC220004 0x7FFFFFFC 5 sample).stage = .mem ∧ (atMem 0xAC220004 0x7FFFFFFC 5 sample).mem.wf ∧
    (atMem 0xAC220004 0x7FFFFFFC 5 sample).platform.noOverrun (atMem 0xAC220004 0x7FFFFFFC 5 sample).exMem.aluOutput ∧
    (atMem 0xAC220004 0x7FFFFFFC 5 sample).platform.regionOf 0x7FFFFFFC = some ⟨0x10010000, 0x7FFFFFFF⟩ ∧
    (atMem 0xAC220004 0 5 sample).platform.noOverrun (atMem 0xAC220004 0 5 sample).exMem.aluOutput ∧
    (atMem 0xAC220004 0 5 sample).platform.regionOf 0 = none ∧
    ¬ (atMem 0xAC220004 0x7FFFFFFD 5 sample).platform.noOverrun (atMem 0xAC220004 0x7FFFFFFD 5 sample).exMem.aluOutput :=
  ⟨rfl, by decide, noOverrun_end, by decide, noOverrun_zero, by decide, overrun_end⟩

/-- `WritesBack`, `WritesNoRegister`, `ReportedByWb`: in WB. -/
theorem witness_stage_wb : (atWb 0x00221820 10 0).stage = .wb ∧ (atWb 0x3C021001 0 0).stage = .wb := by decide

theorem witness_LoadWordWritesTheStaleLmd :
    (runningMem 0x8C220004 0x10010004 0 sample).run = true ∧
    step (runningMem 0x8C220004 0x10010004 0 sample) = .next (endOf (step (runningMem 0x8C220004 0x10010004 0 sample))) ∧
    memClass (runningMem 0x8C220004 0x10010004 0 sample).exMem.opcode ≠ .loadb ∧
    memClass (runningMem 0x8C220004 0x10010004 0 sample).exMem.opcode ≠ .loadh :=
  ⟨rfl, next_endOf (by decide), by decide, by decide⟩

/-- A halting SYSCALL in EX, and one with another value in register 2. -/
theorem witness_OnlySyscallHalts : (hostSetRegister 2 0xA (running 0x0000000C)).run = true ∧
    ends (step (hostSetRegister 2 0xA (running 0x0000000C))) (fun t => !t.run) = true ∧
    ends (step (running 0x0000000C)) (fun t => t.run) = true ∧
    step { State.reset with run := false } = .next { State.reset with run := false } := by
  refine ⟨by decide, by decide, by decide, rfl⟩

/-- The machine two cycles after reset, with a halting SYSCALL in EX. -/
def halting : State :=
  { hostSetRegister 2 0xA (endOf (runFor 2 State.reset)) with
    idEx := decodedLatch 0x0000000C 0x00400000 State.reset.cur }

theorem witness_HaltCutsThePipeline : halting.run = true ∧ halting.trail ∧ 2 ≤ halting.cycleCount ∧
    step halting = .next (endOf (step halting)) ∧ (endOf (step halting)).run = false := by
  refine ⟨by decide, ⟨by decide, fun _ => by decide, fun _ => by decide, fun h => absurd h (by decide),
    fun h => absurd h (by decide)⟩, by decide, next_endOf (by decide), by decide⟩

theorem witness_RegisterZeroIsOrdinary : (atWb 0x00220021 10 0).run = true ∧
    step (atWb 0x00220021 10 0) = .next (endOf (step (atWb 0x00220021 10 0))) ∧ (atWb 0x00220021 10 0).memWb.dest = 0 ∧
    wbClass (atWb 0x00220021 10 0).memWb.opcode (atWb 0x00220021 10 0).memWb.funct = .writeAlu ∧
    (endOf (step State.reset)).idEx.rs = 0 ∧ (endOf (step State.reset)).idEx.rt = 0 :=
  ⟨rfl, next_endOf (by decide), by decide, by decide, by decide, by decide⟩

/-- The same for a load, LB $0, 0($1). -/
theorem witness_RegisterZeroIsOrdinary_load : (atWb 0x80200000 10 7).run = true ∧
    step (atWb 0x80200000 10 7) = .next (endOf (step (atWb 0x80200000 10 7))) ∧ (atWb 0x80200000 10 7).memWb.dest = 0 ∧
    wbClass (atWb 0x80200000 10 7).memWb.opcode (atWb 0x80200000 10 7).memWb.funct = .writeLmd :=
  ⟨rfl, next_endOf (by decide), by decide, by decide⟩

/-- A byte above the four a store writes, and one below. -/
theorem witness_OnlyStoresChangeMemory : (runningMem 0xAC220004 0x10010004 5 sample).mem.wf ∧
    step (runningMem 0xAC220004 0x10010004 5 sample) = .next (endOf (step (runningMem 0xAC220004 0x10010004 5 sample))) ∧
    (runningMem 0xAC220004 0x10010004 5 sample).exMem.aluOutput.toNat +
      (memClass (runningMem 0xAC220004 0x10010004 5 sample).exMem.opcode).storedBytes ≤ 0x10010008 ∧
    0x10010003 < (runningMem 0xAC220004 0x10010004 5 sample).exMem.aluOutput.toNat :=
  ⟨by decide, next_endOf (by decide), by decide, by decide⟩

theorem witness_HiLoChangeOnlyByHiLoClass : (running 0x24010005).run = true ∧
    step (running 0x24010005) = .next (endOf (step (running 0x24010005))) ∧
    exClass (running 0x24010005).idEx.opcode (running 0x24010005).idEx.funct (running 0x24010005).idEx.rt ≠ .hilo :=
  ⟨rfl, next_endOf (by decide), by decide⟩

/-- MTHI (MTLO) in EX, and MFHI (MFLO), at 0x10010004, in IF_ID. -/
def moving (w f : Word) : State :=
  { running w with ifId := ⟨f, 0x10010004⟩, mem := (Memory.putWord [] 0x10010004 f) }

theorem witness_HiLoHaveNoHazard :
    (moving 0x00200011 0x00001810).run = true ∧ (moving 0x00200011 0x00001810).idEx.instr = .ok (.mthi 1 0 0 0) ∧
    ends (step (moving 0x00200011 0x00001810)) (fun t => t.run && decide (t.idEx.instr = .ok (.mfhi 0 0 3 0)) &&
      ends (step t) (fun _ => true)) = true ∧
    (moving 0x00200013 0x00001812).idEx.instr = .ok (.mtlo 1 0 0 0) ∧
    ends (step (moving 0x00200013 0x00001812)) (fun t => t.run && decide (t.idEx.instr = .ok (.mflo 0 0 3 0)) &&
      ends (step t) (fun _ => true)) = true := by decide

theorem coherent_reset : State.reset.coherent := by unfold State.coherent; decide

theorem witness_InstructionsTravelDownTheLatches : State.reset.run = true ∧
    step State.reset = .next (endOf (step State.reset)) ∧ State.reset.coherent :=
  ⟨rfl, next_endOf (by decide), coherent_reset⟩

/-- Three steps with the word `w` in EX and the address 0x10010004 in register 1, and a check of the last state. -/
def threeSteps (w : Word) (i : Instr) (ea : Word) (p : State → Bool) : Bool :=
  let s₀ := ({ hostSetRegister 1 0x10010004 State.reset with mem := sample }).withWordInExecute w
  s₀.run && decide (s₀.idEx.instr = .ok i) && ends (exec i (s₀.atStage .ex)) (fun u => u.exMem.aluOutput == ea) &&
    ends (step s₀) fun s₁ => s₁.run && ends (step s₁) fun s₂ => s₂.run && ends (step s₂) p

/-- A result, a byte and a half-word from memory, the LMD of reset, and an instruction that writes none. -/
theorem witness_ResultReachesItsRegisterInWriteback :
    threeSteps 0x24020005 (.addiu 0 2 5) 5 (fun t => t.cur.reg 2 == 5) = true ∧
    threeSteps 0x80220000 (.lb 1 2 0) 0x10010004 (fun t => t.cur.reg 2 == 0x44) = true ∧
    threeSteps 0x84220000 (.lh 1 2 0) 0x10010004 (fun t => t.cur.reg 2 == 0x3344) = true ∧
    threeSteps 0x8C220000 (.lw 1 2 0) 0x10010004 (fun t => t.cur.reg 2 == 0) = true ∧
    threeSteps 0x0022182A (.slt 1 2 3 0) 0 (fun t => t.cur.reg 3 == 0) = true ∧
    wbClass 0x09 0x05 = .writeAlu ∧ memClass 0x20 = .loadb ∧ memClass 0x21 = .loadh ∧ memClass 0x23 = .loadw ∧
    wbClass 0x00 0x2A = .none ∧ wbClass 0x0F 0x00 = .unrec := by decide

theorem reset_inv : State.reset.Inv :=
  ⟨rfl, by decide, (fun _ h => by cases h), coherent_reset, by decide, rfl⟩

theorem witness_InvariantKept : State.reset.Inv ∧ step State.reset = .next (endOf (step State.reset)) :=
  ⟨reset_inv, next_endOf (by decide)⟩

theorem witness_AddressesTrailThePc : halting.trail ∧ step halting = .next (endOf (step halting)) :=
  ⟨witness_HaltCutsThePipeline.2.1, next_endOf (by decide)⟩

theorem witness_HostMovesKeepTheInvariant : State.reset.Inv ∧
    hostLoadWords [7, 8] State.reset = .next (endOf (hostLoadWords [7, 8] State.reset)) :=
  ⟨reset_inv, next_endOf (by decide)⟩

end Sys2Proof.Tests
end

section
/-! PROOFS. The family 10_state.md: what a step of a running core does to the state, said once, and the statements
that follow from it. -/

namespace Sys2Proof.Machine

/-! The engines, as what each says of the state it answers. -/

/-- WB ends, keeps what `WbKeeps` says, and writes the register of its class (40_pipeline.md R103). -/
theorem wbEngine_next (s : State) :
    ∃ t, wbEngine s = .next t ∧ WbKeeps s t ∧ t.mem = s.mem ∧
      ∀ r, t.nxt.reg r =
        if r = s.memWb.dest ∧ wbClass s.memWb.opcode s.memWb.funct = .writeAlu then s.memWb.aluOutput
        else if r = s.memWb.dest ∧ wbClass s.memWb.opcode s.memWb.funct = .writeLmd then s.memWb.lmd
        else s.nxt.reg r := by
  obtain ⟨t, ht, hk, hm, _, _, hr⟩ := wbDo_next (wbClass s.memWb.opcode s.memWb.funct) (s.atStage .wb)
  refine ⟨t, (wbEngine_eq s).trans ht, { hk with }, hm, fun r => (hr r).trans ?_⟩
  by_cases hd : r = s.memWb.dest <;> cases wbClass s.memWb.opcode s.memWb.funct <;> simp [hd]

/-- MEM, when it ends: what it passes and keeps, and memory as it was or with one word written at `EX_MEM.ALUOutput`. -/
theorem memEngine_next {s t : State} (h : memEngine s = .next t) :
    MemPassed s t ∧ MemKeeps s t ∧
    (t.mem = s.mem ∨ ∃ v, write32 s.platform s.mem s.exMem.aluOutput v = .ok t.mem) := by
  obtain ⟨hp, hk, _, _, hm⟩ := memDo_next ((memEngine_eq s).symm.trans h)
  exact ⟨{ hp with }, { hk with }, hm.imp_right And.right⟩

/-- Class HALT always ends; only RUN depends on register 2. -/
theorem exHalt_eq (s : State) :
    exHalt s = .next { exPass s with run := if s.cur.reg haltReg = haltCode then false else s.run } := by
  unfold exHalt
  split <;> rfl

/-- Class HALT is SYSCALL's own (40_pipeline.md R97). -/
theorem exClass_eq_halt_iff (f : Fields) :
    exClass f.opcode f.funct f.rt = .halt ↔ ∃ code, decodeFields f = .ok (.syscall code) := by
  constructor
  · intro h
    obtain ⟨ho, hf⟩ : f.opcode = 0x00 ∧ f.funct = 0x0C := by
      unfold exClass at h
      split_ifs at h with ho _ _ hf
      exact ⟨ho, hf⟩
    exact ⟨_, by rw [decodeFields, ho, decodeSpecial, hf]; rfl⟩
  · rintro ⟨code, h⟩
    unfold decodeFields at h
    split at h <;> rename_i ho
    · unfold decodeSpecial at h
      split at h <;> rename_i hf <;> cases h
      rw [six_eq_ofNat ho, six_eq_ofNat hf]
      rfl
    · unfold decodeRegimm at h
      split at h <;> cases h
    all_goals cases h

/-- EX leaves HI and LO alone unless its class is HILO (40_pipeline.md R96). -/
theorem exEngine_keepsHiLo {s t : State} (h : exEngine s = .next t)
    (hc : exClass s.idEx.opcode s.idEx.funct s.idEx.rt ≠ .hilo) : KeepsHiLo s t := by
  have hs := exEngine_shape s
  rw [h] at hs
  revert hs hc
  cases exClass s.idEx.opcode s.idEx.funct s.idEx.rt with
  | compute => rintro - ⟨v, hs⟩; cases hs; exact ⟨rfl, rfl⟩
  | hilo => exact fun hc => absurd rfl hc
  | halt => intro _ hs; cases hs.trans (exHalt_eq _); exact ⟨rfl, rfl⟩
  | inert => intro _ hs; cases hs; exact ⟨rfl, rfl⟩
  | unrec => intro _ hs; cases hs; exact ⟨rfl, rfl⟩

/-- EX clears RUN exactly for class HALT with the halt code in register 2 of `CUR` (47_system.md R190). -/
theorem exEngine_run {s t : State} (h : exEngine s = .next t) :
    t.run = if exClass s.idEx.opcode s.idEx.funct s.idEx.rt = .halt ∧ s.cur.reg haltReg = haltCode then false
      else s.run := by
  have hs := exEngine_shape s
  rw [h] at hs
  revert hs
  cases exClass s.idEx.opcode s.idEx.funct s.idEx.rt with
  | compute => rintro ⟨v, hs⟩; cases hs; simp
  | hilo => rintro (hs | hs | ⟨_, _, hs⟩ | hs | hs) <;> cases hs <;> simp
  | halt => intro hs; cases hs.trans (exHalt_eq _); simp only [true_and]; rfl
  | inert => intro hs; cases hs; simp
  | unrec => intro hs; cases hs; simp

/-! The bytes a store leaves alone. -/

/-- The bytes of a word read from memory are the bytes that stand there. -/
theorem byteOf_wordAt (m : Memory) (n : Nat) {k : Nat} (hk : k < 4) : byteOf (m.wordAt n) k = m.byteAt (n + k) := by
  apply BitVec.eq_of_getLsbD_eq
  intro i hi
  simp only [byteOf, Memory.wordAt, wordOfBytes, BitVec.getLsbD_extractLsb', BitVec.getLsbD_append]
  interval_cases k <;> grind

/-- SB's merge changes byte 0 of the word only. -/
theorem byteOf_mergeByte (w b : Word) {k : Nat} (h : 1 ≤ k) : byteOf (mergeByte w b) k = byteOf w k := by
  apply BitVec.eq_of_getLsbD_eq
  intro i hi
  simp only [byteOf, mergeByte, BitVec.getLsbD_extractLsb', BitVec.getLsbD_append]
  grind

/-- SH's merge changes bytes 0 and 1 of the word only. -/
theorem byteOf_mergeHalf (w b : Word) {k : Nat} (h : 2 ≤ k) : byteOf (mergeHalf w b) k = byteOf w k := by
  apply BitVec.eq_of_getLsbD_eq
  intro i hi
  simp only [byteOf, mergeHalf, BitVec.getLsbD_extractLsb', BitVec.getLsbD_append]
  grind

/-- Writing back a word just read, with only its first `j` bytes changed, changes only `j` bytes of memory. -/
theorem write32_merged_frame {p : Platform} {m m' : Memory} {a w v : Word} {j n : Nat} (hwf : m.wf)
    (hr : read32 p m a = .ok w) (hw : write32 p m a v = .ok m')
    (hv : ∀ k, j ≤ k → k < 4 → byteOf v k = byteOf w k) (hn : n < a.toNat ∨ a.toNat + j ≤ n) :
    m'.byteAt n = m.byteAt n := by
  by_cases hout : n < a.toNat ∨ a.toNat + 4 ≤ n
  · exact write32_frame hwf hw hout
  obtain ⟨k, rfl⟩ : ∃ k, n = a.toNat + k := ⟨n - a.toNat, by omega⟩
  have hk : k < 4 := by omega
  rcases write32_cases p m a v with ⟨_, e⟩ | ⟨r, hreg, hin, e⟩ | ⟨r, _, _, e⟩ <;> rw [e] at hw <;> cases hw
  · rfl
  · have hword : w = m.wordAt a.toNat := by simpa [read32, hreg, hin, eq_comm] using hr
    have hbyte : byteOf v k = m.byteAt (a.toNat + k) := by
      rw [hv k (by omega) hk, hword, byteOf_wordAt m _ hk]
    rw [Memory.byteAt_putWord hwf, ← hbyte]
    interval_cases k <;> simp

/-- MEM changes no byte of memory but the ones its class stores (40_pipeline.md R99). -/
theorem memDo_frame {c : MemClass} {s t : State} {n : Nat} (hwf : s.mem.wf) (h : memDo c s = .next t)
    (hn : n < s.exMem.aluOutput.toNat ∨ s.exMem.aluOutput.toNat + c.storedBytes ≤ n) :
    t.mem.byteAt n = s.mem.byteAt n := by
  obtain ⟨-, -, -, -, hstore⟩ := memDo_next h
  cases c <;> simp only [memDo] at h
  case storeb =>
    obtain ⟨w, hr, h⟩ := withRead_next.mp h
    obtain ⟨m, hm, rfl⟩ := memWrite_next.mp h
    exact write32_merged_frame hwf hr hm (fun _ hk _ => byteOf_mergeByte w _ hk) hn
  case storeh =>
    obtain ⟨w, hr, h⟩ := withRead_next.mp h
    obtain ⟨m, hm, rfl⟩ := memWrite_next.mp h
    exact write32_merged_frame hwf hr hm (fun _ hk _ => byteOf_mergeHalf w _ hk) hn
  case storew =>
    obtain ⟨m, hm, rfl⟩ := memWrite_next.mp h
    exact write32_frame hwf hm hn
  all_goals rw [hstore.resolve_right (by simp)]

/-- The engine of MEM changes no byte but the ones the class of `EX_MEM.opcode` stores. -/
theorem memEngine_frame {s t : State} {n : Nat} (hwf : s.mem.wf) (h : memEngine s = .next t)
    (hn : n < s.exMem.aluOutput.toNat ∨ s.exMem.aluOutput.toNat + (memClass s.exMem.opcode).storedBytes ≤ n) :
    t.byteAt n = s.byteAt n :=
  memDo_frame (s := s.atStage .mem) hwf ((memEngine_eq s).symm.trans h) hn

/-! A step of a running core, said once. -/

/-- Everything a step of a running core does to the fields of the state, stage by stage. -/
structure StepEffect (s t : State) : Prop where
  /-- commit (R92) -/
  committed  : t.cur = t.nxt
  /-- IF (R93) -/
  pc         : t.cur.pc = s.cur.pc + 4
  fetchedAt  : t.ifId.pc = s.cur.pc
  /-- ID (R94) -/
  decoded    : ∃ w, t.idEx = decodedLatch w s.ifId.pc s.cur
  /-- EX (R95 to R97) -/
  exPassed   : ExPassed s t
  hiLo       : exClass s.idEx.opcode s.idEx.funct s.idEx.rt ≠ .hilo → t.cur.hi = s.nxt.hi ∧ t.cur.lo = s.nxt.lo
  run        : t.run = if exClass s.idEx.opcode s.idEx.funct s.idEx.rt = .halt ∧ s.cur.reg haltReg = haltCode then false
                 else s.run
  /-- MEM (R98, R99) -/
  memPassed  : MemPassed s t
  stored     : t.mem = s.mem ∨ ∃ v, write32 s.platform s.mem s.exMem.aluOutput v = .ok t.mem
  bytes      : s.mem.wf → ∀ n, n < s.exMem.aluOutput.toNat ∨
                 s.exMem.aluOutput.toNat + (memClass s.exMem.opcode).storedBytes ≤ n → t.byteAt n = s.byteAt n
  /-- WB (R103, R105) -/
  regs       : ∀ r, t.cur.reg r =
                 if r = s.memWb.dest ∧ wbClass s.memWb.opcode s.memWb.funct = .writeAlu then s.memWb.aluOutput
                 else if r = s.memWb.dest ∧ wbClass s.memWb.opcode s.memWb.funct = .writeLmd then s.memWb.lmd
                 else s.nxt.reg r
  instrCount : t.instrCount = s.instrCount + (if s.memWb.ir = 0 then 0 else 1)
  /-- the cycle driver (R90) -/
  cycleCount : t.cycleCount = s.cycleCount + 1
  stage      : t.stage = .wb
  platform   : t.platform = s.platform

/-- What EX passes on depends on `ID_EX` before and `EX_MEM` after only. -/
theorem ExPassed.congr {s t s' t' : State} (h : ExPassed s t) (hs : s'.idEx = s.idEx) (ht : t'.exMem = t.exMem) :
    ExPassed s' t' := by
  constructor <;> rw [hs, ht]
  exacts [h.ir, h.pc, h.opcode, h.funct, h.a, h.b, h.dest]

/-- What MEM passes on depends on `EX_MEM` before and `MEM_WB` after only. -/
theorem MemPassed.congr {s t s' t' : State} (h : MemPassed s t) (hs : s'.exMem = s.exMem) (ht : t'.memWb = t.memWb) :
    MemPassed s' t' := by
  constructor <;> rw [hs, ht]
  exacts [h.ir, h.pc, h.opcode, h.funct, h.dest]

/-- The effects of the five stages, put together along the cycle. -/
theorem step_effect {s t : State} (hrun : s.run = true) (h : step s = .next t) : StepEffect s t := by
  rw [step_running hrun] at h
  obtain ⟨s₁, s₂, s₃, w, f, hwb, hmem, hex, _, _, rfl⟩ := cycle_next h
  obtain ⟨_, hwb', kw, mw, regs⟩ := wbEngine_next (clearReports s)
  cases hwb.symm.trans hwb'
  obtain ⟨pm, km, mm⟩ := memEngine_next hmem
  obtain ⟨_, hex', pe, ke, me, _⟩ := exEngine_next s₂
  cases hex.symm.trans hex'
  have hcur : s₃.cur = s.cur := ke.cur.trans (km.cur.trans kw.cur)
  have hidEx : s₂.idEx = s.idEx := km.idEx.trans kw.idEx
  have hexMem : s₁.exMem = s.exMem := kw.exMem
  have hifId : s₃.ifId = s.ifId := ke.ifId.trans (km.ifId.trans kw.ifId)
  have hplatform : s₁.platform = s.platform := kw.platform
  have hmem₁ : s₁.mem = s.mem := mw
  exact {
    committed := rfl
    pc := congrArg (·.pc + 4) hcur
    fetchedAt := congrArg (·.pc) hcur
    decoded := ⟨w, by simp [hifId, hcur]⟩
    exPassed := pe.congr hidEx.symm rfl
    hiLo := fun hc => by
      obtain ⟨hhi, hlo⟩ := exEngine_keepsHiLo hex (hidEx ▸ hc)
      exact ⟨hhi.trans (km.nxt ▸ kw.hi), hlo.trans (km.nxt ▸ kw.lo)⟩
    run := by
      have hcur₂ : s₂.cur = s.cur := km.cur.trans kw.cur
      have hrun₂ : s₂.run = s.run := km.run.trans kw.run
      rw [← hcur₂, ← hrun₂, ← hidEx]
      exact (exEngine_run hex : s₃.run = _)
    memPassed := pm.congr hexMem.symm ke.memWb
    stored := by
      rw [← hmem₁, ← hplatform, ← hexMem]
      exact me ▸ mm
    bytes := fun hwf n hn => by
      rw [← hexMem] at hn
      rw [← hmem₁] at hwf
      exact (ke.bytes n).trans ((memEngine_frame hwf hmem hn).trans (kw.bytes n))
    regs := fun r => (ke.regs r).trans (km.nxt ▸ regs r)
    instrCount := ke.instrCount.trans (km.instrCount.trans kw.counted)
    cycleCount := congrArg (· + 1) (ke.cycleCount.trans (km.cycleCount.trans kw.cycleCount))
    stage := rfl
    platform := ke.platform.trans (km.platform.trans hplatform) }

/-! The invariant. -/

/-- Coherent latches stay coherent: ID latches a word's own fields, and EX and MEM pass them on. -/
theorem StepEffect.coherent {s t : State} (h : StepEffect s t) (hs : s.coherent) : t.coherent := by
  obtain ⟨hfields, ho, hf, hd, -⟩ := hs
  obtain ⟨w, hw⟩ := h.decoded
  have pe := h.exPassed
  have pm := h.memPassed
  refine ⟨by rw [hw]; rfl, ?_, ?_, ?_, ?_, ?_, ?_⟩
  · rw [pe.opcode, pe.ir]; exact congrArg Fields.opcode hfields
  · rw [pe.funct, pe.ir]; exact congrArg Fields.funct hfields
  · rw [pe.dest, pe.opcode, pe.ir, ← hfields]; rfl
  · rw [pm.opcode, pm.ir]; exact ho
  · rw [pm.funct, pm.ir]; exact hf
  · rw [pm.dest, pm.opcode, pm.ir]; exact hd

/-- A step of a running core keeps the invariant. -/
theorem StepEffect.inv {s t : State} (h : StepEffect s t) (hs : s.Inv) : t.Inv where
  snapshots := h.committed
  canonical := h.stored.elim (fun e => e ▸ hs.canonical) fun ⟨_, hw⟩ => write32_wf hs.canonical hw
  placed := by
    rw [h.platform]
    exact h.stored.elim (fun e => e ▸ hs.placed) fun ⟨_, hw⟩ => write32_placed hs.placed hw
  coherent := h.coherent hs.coherent
  counted := by
    have := hs.counted
    rw [h.instrCount, h.cycleCount]
    split <;> omega
  stage := h.stage

/-- The addresses in the latches keep trailing the PC: each moves on to the next latch while the PC gains 4. -/
theorem StepEffect.trail {s t : State} (h : StepEffect s t) (hs : s.trail) : t.trail := by
  obtain ⟨hpc, hif, hid, hex, -⟩ := hs
  obtain ⟨w, hw⟩ := h.decoded
  have hidPc : t.idEx.pc = s.ifId.pc := by rw [hw]; rfl
  unfold State.trail
  rw [h.pc, h.platform, h.cycleCount, h.fetchedAt, hidPc, h.exPassed.pc, h.memPassed.pc]
  refine ⟨?_, fun _ => ?_, fun hc => ?_, fun hc => ?_, fun hc => ?_⟩
  · rw [hpc, Nat.mul_add, BitVec.ofNat_add, BitVec.add_assoc]; rfl
  · bv_omega
  · rw [hif (by omega)]; bv_omega
  · rw [hid (by omega)]; bv_omega
  · rw [hex (by omega)]; bv_omega

/-- A step that answers is the effect of a cycle, or no change of a halted core. -/
theorem step_cases {s t : State} (h : step s = .next t) : StepEffect s t ∨ (s.run = false ∧ t = s) := by
  cases hrun : s.run with
  | true => exact .inl (step_effect hrun h)
  | false =>
    rw [step_halted hrun] at h
    cases h
    exact .inr ⟨rfl, rfl⟩

/-! Reset. -/

/-- A register of the reset snapshot. -/
@[simp] theorem reg_reset (base : Word) (r : Five) : (Snapshot.reset base).reg r = 0 := by
  simp [Snapshot.reg, Snapshot.reset]

/-- The word 0 has zero fields. -/
theorem fieldsOf_zero : fieldsOf 0#32 = ⟨0, 0, 0, 0, 0, 0, 0, 0⟩ := by decide

/-- A later latch of zeros holds SLL $0,$0,0 (70_reset_and_hazards.md R222). -/
theorem decode_latchedWord_zero : decode (latchedWord 0 0 0) = .ok (.sll 0 0 0 0) := by decide

/-- The reset state of every platform meets the invariant: its latches hold the word 0 and that word's fields. -/
theorem inv_resetOn (p : Platform) : (State.resetOn p).Inv where
  snapshots := rfl
  canonical := ⟨List.Pairwise.nil, fun _ h => absurd h List.not_mem_nil⟩
  placed := fun _ h => absurd h List.not_mem_nil
  coherent := by simp [State.coherent, State.resetOn, fieldsOf_zero, IdEx.fields]
  counted := Nat.le_refl 0
  stage := rfl

/-! Non-interference of the counters and of `IF_ID.IR`. -/

/-- The state with another `IF_ID.IR` and other counters. -/
def State.relabel (x : Word) (c k : Nat) (s : State) : State :=
  { s with ifId := { s.ifId with ir := x }, cycleCount := c, instrCount := k }

/-- The state with other counters. -/
def State.recount (c k : Nat) (s : State) : State := { s with cycleCount := c, instrCount := k }

/-- A result with its next state replaced. -/
def mapNext (f : State → State) (r : Result) : Result := andThen r fun t => .next (f t)

/-- Running on from a replaced state. -/
theorem andThen_mapNext (f : State → State) (r : Result) (k : State → Result) :
    andThen (mapNext f r) k = andThen r fun t => k (f t) := by
  cases r <;> rfl

/-- A replacement made at the end of every continuation is made on the whole. -/
theorem andThen_eq_mapNext (f : State → State) (r : Result) {k k' : State → Result}
    (h : ∀ t, k' t = mapNext f (k t)) :
    andThen r k' = mapNext f (andThen r k) := by
  cases r with
  | next t => exact h t
  | fault _ => rfl
  | refused _ => rfl

/-- The same for a memory read. -/
theorem withRead_eq_mapNext (f : State → State) (s : State) (a : Word) {k k' : Word → Result}
    (h : ∀ w, k' w = mapNext f (k w)) : s.withRead a k' = mapNext f (s.withRead a k) := by
  unfold State.withRead
  cases s.memRead a with
  | ok w => exact h w
  | error _ => rfl

/-- A store looks at the platform and memory only. -/
theorem memWrite_relabel (x : Word) (c k : Nat) (s : State) (a v : Word) :
    (s.relabel x c k).memWrite a v = mapNext (State.relabel x c k) (s.memWrite a v) := by
  simp only [State.memWrite, State.relabel]
  cases write32 s.platform s.mem a v <;> rfl

/-- WB counts on from whatever the counter holds. -/
theorem wbEngine_relabel (x : Word) (c k : Nat) (s : State) :
    wbEngine (s.relabel x c k) =
      mapNext (State.relabel x c (k + if s.memWb.ir = 0 then 0 else 1)) (wbEngine s) := by
  have hcount : wbCount ((s.relabel x c k).atStage .wb) =
      (wbCount (s.atStage .wb)).relabel x c (k + if s.memWb.ir = 0 then 0 else 1) := by
    by_cases hir : s.memWb.ir = 0 <;>
      simp only [wbCount, State.relabel, State.atStage, hir, ↓reduceIte, Nat.add_zero]
  rw [wbEngine_eq, wbEngine_eq]
  show wbDo (wbClass s.memWb.opcode s.memWb.funct) _ = _
  cases wbClass s.memWb.opcode s.memWb.funct <;>
    simp only [wbDo, wbWriteAlu, wbWriteLmd, wbNone, wbUnrec, hcount] <;> rfl

/-- MEM looks at no counter and at no `IF_ID.IR`. -/
theorem memEngine_relabel (x : Word) (c k : Nat) (s : State) :
    memEngine (s.relabel x c k) = mapNext (State.relabel x c k) (memEngine s) := by
  rw [memEngine_eq, memEngine_eq]
  have hwrite (v : Word) := memWrite_relabel x c k (memAlu s.exMem.aluOutput (s.atStage .mem)) s.exMem.aluOutput v
  show memDo (memClass s.exMem.opcode) ((s.atStage .mem).relabel x c k) = _
  cases memClass s.exMem.opcode with
  | pass => rfl
  | loadb => exact withRead_eq_mapNext _ _ _ fun _ => rfl
  | loadh => exact withRead_eq_mapNext _ _ _ fun _ => rfl
  | loadw => exact withRead_eq_mapNext _ _ _ fun _ => rfl
  | storeb => exact withRead_eq_mapNext _ _ _ fun _ => hwrite _
  | storeh => exact withRead_eq_mapNext _ _ _ fun _ => hwrite _
  | storew => exact hwrite _
  | unrec => rfl

theorem divide_relabel (x : Word) (c k : Nat) (s : State) :
    divide (s.relabel x c k) = mapNext (State.relabel x c k) (divide s) := by
  unfold divide
  show (if s.idEx.b = 0 then _ else if s.idEx.a = 0x80000000 ∧ s.idEx.b = 0xFFFFFFFF then _ else _) = _
  split_ifs <;> rfl

theorem divideUnsigned_relabel (x : Word) (c k : Nat) (s : State) :
    divideUnsigned (s.relabel x c k) = mapNext (State.relabel x c k) (divideUnsigned s) := by
  unfold divideUnsigned
  show (if s.idEx.b = 0 then _ else _) = _
  split_ifs <;> rfl

theorem exHalt_relabel (x : Word) (c k : Nat) (s : State) :
    exHalt (s.relabel x c k) = mapNext (State.relabel x c k) (exHalt s) := by
  rw [exHalt_eq, exHalt_eq]
  rfl

/-- No instruction looks at a counter or at `IF_ID.IR` in EX. -/
theorem exec_ex_relabel (i : Instr) (x : Word) (c k : Nat) (s : State) :
    exec i ((s.atStage .ex).relabel x c k) = mapNext (State.relabel x c k) (exec i (s.atStage .ex)) := by
  cases i with
  | div => exact divide_relabel x c k (s.atStage .ex)
  | divu => exact divideUnsigned_relabel x c k (s.atStage .ex)
  | syscall => exact exHalt_relabel x c k (s.atStage .ex)
  | _ => rfl

theorem exEngine_relabel (x : Word) (c k : Nat) (s : State) :
    exEngine (s.relabel x c k) = mapNext (State.relabel x c k) (exEngine s) := by
  show exOn s.idEx.instr ((s.atStage .ex).relabel x c k) = mapNext _ (exOn s.idEx.instr (s.atStage .ex))
  cases s.idEx.instr with
  | ok i => exact exec_ex_relabel i x c k s
  | error _ => rfl

/-- Decode reads at the latch's PC, whatever its IR. -/
theorem idStage_relabel (x : Word) (c k : Nat) (s : State) :
    idStage (s.relabel x c k) = mapNext (State.relabel x c k) (idStage s) :=
  withRead_eq_mapNext _ s s.ifId.pc fun _ => rfl

/-- Fetch overwrites `IF_ID`: only the counters stay different. -/
theorem ifStage_relabel (x : Word) (c k : Nat) (s : State) :
    ifStage (s.relabel x c k) = mapNext (State.recount c k) (ifStage s) :=
  withRead_eq_mapNext _ s s.cur.pc fun _ => rfl

/-- A cycle from a state with another `IF_ID.IR` and other counters ends the same, with those counters counted on. -/
theorem cycle_relabel (x : Word) (c k : Nat) (s : State) :
    cycle (s.relabel x c k) = mapNext (State.recount (c + 1) (k + if s.memWb.ir = 0 then 0 else 1)) (cycle s) := by
  unfold cycle
  rw [show clearReports (s.relabel x c k) = (clearReports s).relabel x c k from rfl, wbEngine_relabel, andThen_mapNext]
  refine andThen_eq_mapNext _ _ fun s₁ => ?_
  rw [memEngine_relabel, andThen_mapNext]
  refine andThen_eq_mapNext _ _ fun s₂ => ?_
  rw [exEngine_relabel, andThen_mapNext]
  refine andThen_eq_mapNext _ _ fun s₃ => ?_
  rw [idStage_relabel, andThen_mapNext]
  refine andThen_eq_mapNext _ _ fun s₄ => ?_
  rw [ifStage_relabel, andThen_mapNext]
  exact andThen_eq_mapNext _ _ fun _ => rfl

/-! The statements. -/

/-- Settles O56: a running step by its effect, a halted core by staying as it is. -/
theorem invariantKept : Obligations.InvariantKept := by
  intro s t hs h
  rcases step_cases h with e | ⟨_, rfl⟩
  · exact ⟨e.inv hs, e.platform⟩
  · exact ⟨hs, rfl⟩

/-- Settles O20: `cycle_relabel` with `IF_ID.IR` as it is. -/
theorem countersDoNotInterfere : Obligations.CountersDoNotInterfere := by
  intro s t c k hrun h
  have hcycle := cycle_relabel s.ifId.ir c k s
  rw [← step_running hrun, h] at hcycle
  exact (step_running (s := s.relabel s.ifId.ir c k) hrun).trans hcycle

/-- Settles O21: with the counters of `s` itself, `cycle_relabel` gives the same next state, for a step that answers
has counted on from them. -/
theorem fetchedWordIsNeverUsed : Obligations.FetchedWordIsNeverUsed := by
  intro s x hrun
  have hcycle := cycle_relabel x s.cycleCount s.instrCount s
  rw [← step_running hrun] at hcycle
  refine (step_running (s := s.relabel x s.cycleCount s.instrCount) hrun).trans (hcycle.trans ?_)
  cases h : step s with
  | next t =>
    have e := step_effect hrun h
    rw [← e.cycleCount, ← e.instrCount]
    rfl
  | fault _ => rfl
  | refused _ => rfl

/-- Settles O22 by the effect of IF and of the cycle driver. -/
theorem pcAndCycleAdvance : Obligations.PcAndCycleAdvance := by
  intro s t hrun h
  have e := step_effect hrun h
  refine ⟨?_, e.cycleCount⟩
  rw [e.pc, BitVec.toNat_add]
  rfl

/-- Settles O46: EX clears RUN in class HALT only, and that class is SYSCALL's. -/
theorem onlySyscallHalts : Obligations.OnlySyscallHalts := by
  refine ⟨fun s t hrun h => ?_, fun _ => rfl, fun _ => rfl, fun s t hrun h => ?_⟩
  · have e := step_effect hrun h
    refine ⟨?_, e.pc⟩
    have hclass : exClass s.idEx.opcode s.idEx.funct s.idEx.rt = .halt ↔
        ∃ code, s.idEx.instr = .ok (.syscall code) := exClass_eq_halt_iff s.idEx.fields
    rw [← hclass, e.run, hrun]
    exact ite_eq_left_iff.trans (by simp [haltReg, haltCode])
  · rw [step_halted hrun] at h
    cases h
    rfl

/-- Settles O48 by the effect of WB: the stages after it keep the registers. -/
theorem onlyWritebackWritesRegisters : Obligations.OnlyWritebackWritesRegisters :=
  fun _ _ r hrun h => (step_effect hrun h).regs r

/-- Settles O49: the write is the one of `StepEffect.regs`, the read the one of `decodedLatch`; neither looks at the
index. -/
theorem registerZeroIsOrdinary : Obligations.RegisterZeroIsOrdinary := by
  refine ⟨fun s t hrun h hd => ?_, fun s t hrun h => ?_, fun p => ⟨reg_reset _ _, reg_reset _ _⟩⟩
  · rw [(step_effect hrun h).regs 0, hd]
    exact ⟨fun hc => by simp [hc], fun hc => by simp [hc]⟩
  · obtain ⟨w, hw⟩ := (step_effect hrun h).decoded
    rw [hw]
    exact ⟨fun hrs => congrArg s.cur.reg hrs, fun hrt => congrArg s.cur.reg hrt⟩

/-- Settles O50 by the effect of MEM, whose merges write back the bytes they read. -/
theorem onlyStoresChangeMemory : Obligations.OnlyStoresChangeMemory := by
  intro s t n hwf h hn
  rcases step_cases h with e | ⟨_, rfl⟩
  · exact e.bytes hwf n hn
  · rfl

/-- Settles O51 by the effect of EX. -/
theorem hiLoChangeOnlyByHiLoClass : Obligations.HiLoChangeOnlyByHiLoClass :=
  fun _ _ hrun h => (step_effect hrun h).hiLo

/-- Settles O54: a coherent latch and the next one decode the same word. -/
theorem instructionsTravelDownTheLatches : Obligations.InstructionsTravelDownTheLatches := by
  intro s t hrun h
  have e := step_effect hrun h
  refine ⟨e.exPassed, e.memPassed, fun hs => ?_⟩
  obtain ⟨-, ho, hf, -⟩ := e.coherent hs
  obtain ⟨hfields, -⟩ := hs
  constructor
  · rw [ExMem.instr, latchedWord_self ho hf, e.exPassed.ir, IdEx.instr, hfields]; rfl
  · rw [MemWb.instr, e.memPassed.opcode, e.memPassed.funct, e.memPassed.ir]; rfl

/-- Settles O58: each address moves on by a latch while the PC gains 4. -/
theorem addressesTrailThePc : Obligations.AddressesTrailThePc := by
  refine ⟨fun p => ?_, fun s t hs h => ?_⟩
  · simp [State.trail, State.resetOn, Snapshot.reset]
  · rcases step_cases h with e | ⟨_, rfl⟩
    · exact e.trail hs
    · exact hs

/-- Settles O57: `inv_resetOn` on every platform; the chosen platform's constraints are decided. -/
theorem invariantAtReset : Obligations.InvariantAtReset :=
  ⟨inv_resetOn, inv_resetOn resetPlatform, by decide⟩

/-- Settles O59, field by field. -/
theorem resetClearsTheMachine : Obligations.ResetClearsTheMachine :=
  fun _ => ⟨reg_reset _, rfl, rfl, rfl, rfl, fun _ => rfl, rfl, rfl, rfl, rfl, rfl, decode_latchedWord_zero,
    decode_latchedWord_zero, rfl, rfl, rfl, rfl⟩

end Sys2Proof.Machine
end

section
/-! PROOFS. The family 20_memory.md: one equation per answer of `read32` and `write32`, the load of a program, and
which accesses of a cycle end it. -/

namespace Sys2Proof.Machine

/-! What a read and a store answer, case by case (20_memory.md R42 to R45). -/

/-- In the region of the address, an overrun is a matter of the fourth byte. -/
theorem noOverrun_iff_of_region {p : Platform} {a : Word} {r : Region} (hr : p.regionOf a = some r) :
    p.noOverrun a ↔ a.toNat + 3 ≤ r.last.toNat := by
  simp [Platform.noOverrun, hr]

/-- Only an address in a region can overrun. -/
theorem exists_region_of_overrun {p : Platform} {a : Word} (h : ¬ p.noOverrun a) :
    ∃ r, p.regionOf a = some r ∧ ¬ a.toNat + 3 ≤ r.last.toNat := by
  simpa [Platform.noOverrun] using h

theorem read32_unmapped {p : Platform} {a : Word} (h : p.regionOf a = none) (m : Memory) : read32 p m a = .ok 0 := by
  simp [read32, h]

theorem write32_unmapped {p : Platform} {a : Word} (h : p.regionOf a = none) (m : Memory) (v : Word) :
    write32 p m a v = .ok m := by
  simp [write32, h]

theorem read32_inside {p : Platform} {a : Word} {r : Region} (hr : p.regionOf a = some r)
    (hin : a.toNat + 3 ≤ r.last.toNat) (m : Memory) : read32 p m a = .ok (m.wordAt a.toNat) := by
  simp [read32, hr, hin]

theorem write32_inside {p : Platform} {a : Word} {r : Region} (hr : p.regionOf a = some r)
    (hin : a.toNat + 3 ≤ r.last.toNat) (m : Memory) (v : Word) : write32 p m a v = .ok (m.putWord a.toNat v) := by
  simp [write32, hr, hin]

theorem read32_overrun {p : Platform} {a : Word} (h : ¬ p.noOverrun a) (m : Memory) :
    read32 p m a = .error .regionOverrun := by
  obtain ⟨r, hr, hout⟩ := exists_region_of_overrun h
  simp [read32, hr, hout]

theorem write32_overrun {p : Platform} {a : Word} (h : ¬ p.noOverrun a) (m : Memory) (v : Word) :
    write32 p m a v = .error .regionOverrun := by
  obtain ⟨r, hr, hout⟩ := exists_region_of_overrun h
  simp [write32, hr, hout]

/-! Words and their bytes (20_memory.md R46). -/

/-- The higher part of a concatenation counts in units of the lower part's width. -/
theorem toNat_append_eq_add {m n : Nat} (x : BitVec m) (y : BitVec n) :
    (x ++ y).toNat = 2 ^ n * x.toNat + y.toNat := by
  rw [BitVec.toNat_append, ← Nat.shiftLeft_add_eq_or_of_lt y.isLt, Nat.shiftLeft_eq, Nat.mul_comm]

/-- Four bytes as a number, the first in the lowest place. -/
theorem toNat_wordOfBytes (b0 b1 b2 b3 : Byte) :
    (wordOfBytes b0 b1 b2 b3).toNat = b0.toNat + 2 ^ 8 * b1.toNat + 2 ^ 16 * b2.toNat + 2 ^ 24 * b3.toNat := by
  unfold wordOfBytes
  simp only [toNat_append_eq_add]
  omega

/-- Byte `k` of a word is the digit of its number in base 256. -/
theorem byteOf_eq_digit (v : Word) (k : Nat) : byteOf v k = BitVec.ofNat 8 (v.toNat / 256 ^ k) := by
  rw [byteOf, BitVec.extractLsb', Nat.shiftRight_eq_div_pow, Nat.pow_mul]

/-- The four bytes a word store puts. -/
theorem Memory.byteAt_putWord_inside {m : Memory} (h : m.wf) (n : Nat) (v : Word) {k : Nat} (hk : k < 4) :
    (m.putWord n v).byteAt (n + k) = byteOf v k := by
  rw [Memory.byteAt_putWord h]
  interval_cases k <;> simp

/-- The bytes it leaves. -/
theorem Memory.byteAt_putWord_outside {m : Memory} (h : m.wf) {n k : Nat} (v : Word) (hk : k < n ∨ n + 4 ≤ k) :
    (m.putWord n v).byteAt k = m.byteAt k := by
  rw [Memory.byteAt_putWord h, if_neg (by omega), if_neg (by omega), if_neg (by omega), if_neg (by omega)]

/-- A word store leaves a word below it as it was. -/
theorem Memory.wordAt_putWord_below {m : Memory} (h : m.wf) {n k : Nat} (v : Word) (hk : k + 4 ≤ n) :
    (m.putWord n v).wordAt k = m.wordAt k := by
  have hbyte (j : Nat) (hj : j < n) := Memory.byteAt_putWord_outside h v (.inl hj)
  simp only [Memory.wordAt, hbyte k (by omega), hbyte (k + 1) (by omega), hbyte (k + 2) (by omega),
    hbyte (k + 3) (by omega)]

/-! `load_words` (20_memory.md R53). -/

theorem andThen_assoc (r : Result) (j k : State → Result) :
    andThen (andThen r j) k = andThen r fun t => andThen (j t) k := by
  cases r <;> rfl

/-- One word more is loaded after the others, at the next stride. -/
theorem loadFrom_append (ws : List Word) (w a : Word) (s : State) :
    loadFrom a (ws ++ [w]) s =
      andThen (loadFrom a ws s) fun t => t.memWrite (a + BitVec.ofNat 32 (4 * ws.length)) w := by
  induction ws generalizing a s with
  | nil =>
    rw [show a + BitVec.ofNat 32 (4 * [].length) = a from BitVec.add_zero a]
    show andThen (s.memWrite a w) .next = s.memWrite a w
    cases s.memWrite a w <;> rfl
  | cons x ws ih =>
    have hstride : a + 4 + BitVec.ofNat 32 (4 * ws.length) = a + BitVec.ofNat 32 (4 * (x :: ws).length) := by
      rw [List.length_cons, Nat.mul_succ, Nat.add_comm, BitVec.ofNat_add, BitVec.add_assoc]
      rfl
    calc
      loadFrom a (x :: ws ++ [w]) s = andThen (s.memWrite a x) (loadFrom (a + 4) (ws ++ [w])) := rfl
      _ = andThen (s.memWrite a x) fun u => andThen (loadFrom (a + 4) ws u) fun t =>
          t.memWrite (a + BitVec.ofNat 32 (4 * (x :: ws).length)) w := by simp only [funext (ih (a + 4)), hstride]
      _ = _ := (andThen_assoc _ _ _).symm

/-- What a program that lies in one region leaves: its words from the text base on, and all else as it was. -/
structure Loaded (ws : List Word) (s t : State) : Prop where
  onlyMem   : t = { s with mem := t.mem }
  canonical : t.mem.wf
  words     : ∀ i w, ws[i]? = some w → t.mem.wordAt (s.platform.textBase.toNat + 4 * i) = w
  frame     : ∀ n, n < s.platform.textBase.toNat ∨ s.platform.textBase.toNat + 4 * ws.length ≤ n →
                t.byteAt n = s.byteAt n

/-- The next word stored behind a loaded program makes the longer program loaded. -/
theorem Loaded.append {ws : List Word} {s t : State} (h : Loaded ws s t) (w : Word) :
    Loaded (ws ++ [w]) s
      { t with mem := t.mem.putWord (s.platform.textBase.toNat + 4 * ws.length) w } where
  onlyMem := by rw [h.onlyMem]
  canonical := Memory.putWord_wf h.canonical _ _
  words i x hx := by
    rcases Nat.lt_trichotomy i ws.length with hi | rfl | hi
    · rw [List.getElem?_append_left hi] at hx
      exact (Memory.wordAt_putWord_below h.canonical w (by omega)).trans (h.words i x hx)
    · rw [List.getElem?_concat_length, Option.some_inj] at hx
      subst hx
      exact Memory.wordAt_putWord h.canonical _ _
    · rw [List.getElem?_eq_none (by simpa using hi)] at hx
      cases hx
  frame n hn := by
    rw [List.length_append, List.length_singleton] at hn
    exact (Memory.byteAt_putWord_outside h.canonical w (by omega)).trans (h.frame n (by omega))

/-- The addresses of a program that ends inside a region do not wrap. -/
theorem toNat_add_stride {base : Word} {r : Region} {i : Nat} (h : base.toNat + 4 * i ≤ r.last.toNat) :
    (base + BitVec.ofNat 32 (4 * i)).toNat = base.toNat + 4 * i := by
  have := r.last.isLt
  rw [BitVec.toNat_add, BitVec.toNat_ofNat]
  omega

/-- A program that lies in one region loads. -/
theorem hostLoadWords_loaded {ws : List Word} {s : State} {r : Region} (hwf : s.mem.wf)
    (hreg : ∀ i, i < ws.length → s.platform.regionOf (s.platform.textBase + BitVec.ofNat 32 (4 * i)) = some r)
    (hend : s.platform.textBase.toNat + 4 * ws.length ≤ r.last.toNat + 1) :
    ∃ t, hostLoadWords ws s = .next t ∧ Loaded ws s t := by
  induction ws using List.reverseRecOn with
  | nil => exact ⟨s, rfl, rfl, hwf, by simp, fun _ _ => rfl⟩
  | append_singleton ws w ih =>
    rw [List.length_append, List.length_singleton] at hreg hend
    obtain ⟨t, ht, hl⟩ := ih (fun i hi => hreg i (by omega)) (by omega)
    have hto := toNat_add_stride (base := s.platform.textBase) (r := r) (i := ws.length) (by omega)
    have hplatform : t.platform = s.platform := by rw [hl.onlyMem]
    have hwrite := write32_inside (hreg ws.length (by omega)) (by omega) t.mem w
    rw [hto, ← hplatform] at hwrite
    refine ⟨_, ?_, hl.append w⟩
    rw [hostLoadWords, loadFrom_append, ← hostLoadWords, ht, ← hplatform]
    exact memWrite_next.mpr ⟨_, hwrite, rfl⟩

/-! Which accesses of a cycle end it (20_memory.md R45, 40_pipeline.md R90). -/

/-- A result is a next state when `ok` holds, and the model's one fault when it does not. -/
def NextIff (ok : Prop) (r : Result) : Prop := (ok → ∃ t, r = .next t) ∧ (¬ ok → r = .fault .regionOverrun)

/-- What always ends puts no condition. -/
theorem NextIff.of_next {r : Result} (h : ∃ t, r = .next t) : NextIff True r :=
  ⟨fun _ => h, fun hn => absurd trivial hn⟩

/-- One part of a cycle after another: both conditions must hold. -/
theorem NextIff.andThen {ok ok' : Prop} {r : Result} {k : State → Result} (hr : NextIff ok r)
    (hk : ∀ t, r = .next t → NextIff ok' (k t)) : NextIff (ok ∧ ok') (andThen r k) := by
  by_cases h : ok
  · obtain ⟨t, rfl⟩ := hr.1 h
    rw [and_iff_right h]
    exact hk t rfl
  · rw [hr.2 h]
    exact ⟨fun hok => absurd hok.1 h, fun _ => rfl⟩

/-- What follows a part and cannot stop leaves the condition as it is. -/
theorem NextIff.andThen_next {ok : Prop} {r : Result} (hr : NextIff ok r) (f : State → State) :
    NextIff ok (Machine.andThen r fun t => .next (f t)) := by
  simpa using hr.andThen fun t _ => NextIff.of_next ⟨f t, rfl⟩

/-- A read, and what comes after it. -/
theorem withRead_nextIff {ok : Prop} {s : State} {a : Word} {k : Word → Result} (hk : ∀ w, NextIff ok (k w)) :
    NextIff (s.platform.noOverrun a ∧ ok) (s.withRead a k) := by
  unfold State.withRead State.memRead
  by_cases h : s.platform.noOverrun a
  · obtain ⟨w, hw⟩ := (read32_ok_iff s.platform s.mem a).mpr h
    rw [and_iff_right h, hw]
    exact hk w
  · rw [read32_overrun h]
    exact ⟨fun hok => absurd hok.1 h, fun _ => rfl⟩

/-- A read after which nothing can stop the stage. -/
theorem withRead_next_nextIff {s : State} {a : Word} (f : Word → State) :
    NextIff (s.platform.noOverrun a) (s.withRead a fun w => .next (f w)) := by
  simpa using withRead_nextIff (s := s) (a := a) fun w => NextIff.of_next ⟨f w, rfl⟩

theorem memWrite_nextIff (s : State) (a v : Word) : NextIff (s.platform.noOverrun a) (s.memWrite a v) := by
  constructor
  · intro h
    obtain ⟨m, hm⟩ := (write32_ok_iff s.platform s.mem a v).mpr h
    exact ⟨_, memWrite_next.mpr ⟨m, hm, rfl⟩⟩
  · intro h
    simp [State.memWrite, write32_overrun h]

/-- A read and a store at one address, as SB and SH do. -/
theorem withRead_memWrite_nextIff (s : State) (a x : Word) (v : Word → Word) :
    NextIff (s.platform.noOverrun a) (s.withRead a fun w => (memAlu x s).memWrite a (v w)) := by
  simpa using withRead_nextIff (s := s) (a := a) fun w => memWrite_nextIff (memAlu x s) a (v w)

/-- MEM stops for an overrun only, and only in a class that makes an access. -/
theorem memDo_nextIff (c : MemClass) (s : State) :
    NextIff (c.accesses = true → s.platform.noOverrun s.exMem.aluOutput) (memDo c s) := by
  cases c <;> simp only [MemClass.accesses, Bool.false_eq_true, false_implies, true_implies]
  case pass => exact .of_next ⟨_, rfl⟩
  case loadb => exact withRead_next_nextIff _
  case loadh => exact withRead_next_nextIff _
  case loadw => exact withRead_next_nextIff _
  case storeb => exact withRead_memWrite_nextIff s _ _ _
  case storeh => exact withRead_memWrite_nextIff s _ _ _
  case storew => exact memWrite_nextIff (memAlu s.exMem.aluOutput s) _ _
  case unrec => exact .of_next ⟨_, rfl⟩

/-- The same of the engine, by the class of `EX_MEM.opcode`. -/
theorem memEngine_nextIff (s : State) :
    NextIff ((memClass s.exMem.opcode).accesses = true → s.platform.noOverrun s.exMem.aluOutput) (memEngine s) :=
  memEngine_eq s ▸ memDo_nextIff (memClass s.exMem.opcode) (s.atStage .mem)

theorem idStage_nextIff (s : State) : NextIff (s.platform.noOverrun s.ifId.pc) (idStage s) :=
  withRead_next_nextIff _

theorem ifStage_nextIff (s : State) : NextIff (s.platform.noOverrun s.cur.pc) (ifStage s) :=
  withRead_next_nextIff _

/-- A cycle ends in a next state exactly when the accesses of MEM, ID and IF overrun no region. -/
theorem cycle_nextIff (s : State) : NextIff s.noOverrun (cycle s) := by
  obtain ⟨s₁, hwb, kw, -⟩ := wbEngine_next (clearReports s)
  rw [cycle, hwb]
  have hmem := memEngine_nextIff s₁
  rw [kw.exMem, kw.platform] at hmem
  refine hmem.andThen fun s₂ h₂ => ?_
  obtain ⟨-, km, -⟩ := memEngine_next h₂
  obtain ⟨s₃, hex, -, ke, -⟩ := exEngine_next s₂
  rw [hex]
  have hplatform : s₃.platform = s.platform := ke.platform.trans (km.platform.trans kw.platform)
  have hifId : s₃.ifId = s.ifId := ke.ifId.trans (km.ifId.trans kw.ifId)
  have hcur : s₃.cur = s.cur := ke.cur.trans (km.cur.trans kw.cur)
  rw [← hplatform, ← hifId, ← hcur]
  refine (idStage_nextIff s₃).andThen fun s₄ h₄ => ?_
  obtain ⟨w, -, h₄⟩ := withRead_next.mp h₄
  cases h₄
  exact (ifStage_nextIff { s₃ with idEx := decodedLatch w s₃.ifId.pc s₃.cur }).andThen_next commit

/-! What ID and IF read (20_memory.md R50, R52). -/

/-- The words decoded and fetched are those of the memory the cycle leaves, at the addresses latched with them. -/
theorem cycle_reads {s t : State} (h : cycle s = .next t) :
    t.memRead t.idEx.pc = .ok t.idEx.ir ∧ t.memRead t.ifId.pc = .ok t.ifId.ir := by
  obtain ⟨_, _, _, _, _, _, _, _, hid, hif, rfl⟩ := cycle_next h
  exact ⟨hid, hif⟩

/-! The statements. -/

/-- Settles O5: the three answers of `read32`, the word's number digit by digit. -/
theorem readIsLittleEndian : Obligations.ReadIsLittleEndian := by
  refine fun p m a => ⟨fun h => read32_unmapped h m, fun r hr hin => ?_, fun r hr hout => ?_⟩
  · exact ⟨_, read32_inside hr hin m, toNat_wordOfBytes _ _ _ _⟩
  · exact read32_overrun (by rw [noOverrun_iff_of_region hr]; omega) m

/-- Settles O6: the three answers of `write32`, with the bytes of the word put and the frame. -/
theorem writeIsLittleEndian : Obligations.WriteIsLittleEndian := by
  refine fun p m a v hwf => ⟨fun h => write32_unmapped h m v, fun r hr hin => ?_, fun r hr hout => ?_⟩
  · have hw := write32_inside hr hin m v
    exact ⟨_, hw, fun k hk => (Memory.byteAt_putWord_inside hwf _ v hk).trans (byteOf_eq_digit v k),
      fun n hn => write32_frame hwf hw hn⟩
  · exact write32_overrun (by rw [noOverrun_iff_of_region hr]; omega) m v

/-- Settles O7: where a region ends on a multiple of 4, three bytes more than an address below its end fit in. -/
theorem overrunNeverAligned : Obligations.OverrunNeverAligned := by
  refine ⟨fun p m a v => ⟨fun h => ⟨(read32_ok_iff p m a).mpr h, (write32_ok_iff p m a v).mpr h⟩,
    fun h => ⟨read32_overrun h m, write32_overrun h m v⟩⟩, fun p a hregions ha r hr => ?_⟩
  obtain ⟨hmem, hfirst, hlast⟩ := regionOf_some hr
  obtain ⟨hbegin, hsize⟩ := hregions r hmem
  omega

/-- Settles O8: the region of an address does not depend on memory, so the read meets the same case as the write. -/
theorem memoryRoundTrip : Obligations.MemoryRoundTrip := by
  refine fun p m a v hwf => ⟨fun h r hr => ?_, fun h => ⟨m, write32_unmapped h m v, read32_unmapped h m⟩⟩
  have hin := (noOverrun_iff_of_region hr).mp h
  exact ⟨_, write32_inside hr hin m v,
    (read32_inside hr hin _).trans (congrArg _ (Memory.wordAt_putWord hwf a.toNat v))⟩

/-- Settles O9: `loadFrom_append` for the order of the writes, `hostLoadWords_loaded` for what they leave. -/
theorem loadWordsFillsText : Obligations.LoadWordsFillsText := by
  refine ⟨fun _ => rfl, fun ws w s => loadFrom_append ws w _ s, fun ws s r hwf hreg hend => ?_⟩
  obtain ⟨t, ht, hl⟩ := hostLoadWords_loaded hwf hreg hend
  refine ⟨t, ht, hl.onlyMem, fun i w hw => ?_, hl.frame⟩
  obtain ⟨hi, -⟩ := List.getElem?_eq_some_iff.mp hw
  have hto := toNat_add_stride (base := s.platform.textBase) (r := r) (i := i) (by omega)
  have hplatform : t.platform = s.platform := by rw [hl.onlyMem]
  rw [State.memRead, hplatform, read32_inside (hreg i hi) (by omega), hto, hl.words i w hw]

/-- Settles O25 for the cycle that a step of a running core is. -/
theorem stepEndsUnlessOverrun : Obligations.StepEndsUnlessOverrun := by
  intro s hrun
  rw [step_running hrun]
  exact cycle_nextIff s

/-- Settles O53: the reads by `cycle_reads`, the addresses and operands by the effect of ID and IF. -/
theorem decodeSeesTheStoreNotTheWriteback : Obligations.DecodeSeesTheStoreNotTheWriteback := by
  intro s t hrun h
  obtain ⟨hid, hif⟩ := cycle_reads ((step_running hrun).symm.trans h)
  have e := step_effect hrun h
  obtain ⟨w, hw⟩ := e.decoded
  have hpc : t.idEx.pc = s.ifId.pc := by rw [hw]; rfl
  refine ⟨hpc ▸ hid, e.fetchedAt ▸ hif, hpc, e.fetchedAt, ?_, ?_, ?_⟩ <;> rw [hw] <;> rfl

/-- Settles O4: `write32` gives the same memory back, so the state is the same. -/
theorem unmappedAccess : Obligations.UnmappedAccess := by
  refine fun p m a v h => ⟨read32_unmapped h m, write32_unmapped h m v, fun s hs => ?_⟩
  exact memWrite_next.mpr ⟨s.mem, write32_unmapped (hs ▸ h) s.mem v, rfl⟩

end Sys2Proof.Machine
end

section
/-! PROOFS. The family 30_encoding.md: the fields of a word as numbers, and the statements. -/

namespace Sys2Proof.Machine

/-! The fields of a word by their bit positions (30_encoding.md R71). -/

/-- The field of `n` bits from bit `lo` on, as a number. -/
theorem toNat_field (w : Word) (lo n : Nat) : (w.extractLsb' lo n).toNat = w.toNat / 2 ^ lo % 2 ^ n := by
  rw [BitVec.extractLsb'_toNat, Nat.shiftRight_eq_div_pow]

/-- A field that begins at bit 0 is a remainder. -/
theorem toNat_lowField (w : Word) (n : Nat) : (w.extractLsb' 0 n).toNat = w.toNat % 2 ^ n := by
  rw [toNat_field, Nat.pow_zero, Nat.div_one]

/-- The opcode ends at the top bit of the word, so it is a quotient. -/
theorem toNat_opcode (w : Word) : (fieldsOf w).opcode.toNat = w.toNat / 2 ^ 26 :=
  (toNat_field w 26 6).trans (Nat.mod_eq_of_lt (by omega))

/-! What ID answers (40_pipeline.md R94). -/

/-- Where the latched address reads a word, ID latches that word's fields and registers. -/
theorem idStage_of_read {s : State} {w : Word} (h : s.memRead s.ifId.pc = .ok w) :
    idStage s = .next { s with idEx := decodedLatch w s.ifId.pc s.cur } :=
  withRead_next.mpr ⟨w, h, rfl⟩

/-! The statements. -/

/-- Settles O14: `idStage_of_read` gives the latch, `toNat_field` its fields as numbers. The read looks at memory, the
platform and `IF_ID.PC` alone, so the same lemma answers for every word latched by fetch. -/
theorem decodeExtractsAllFields : Obligations.DecodeExtractsAllFields := by
  intro s w h
  refine ⟨_, idStage_of_read h, rfl, rfl, toNat_opcode w, toNat_field w 21 5, toNat_field w 16 5, toNat_field w 11 5,
    toNat_field w 6 5, toNat_lowField w 6, toNat_lowField w 16, toNat_lowField w 26, rfl, rfl, rfl, fun x => ?_⟩
  have hx : { s with ifId := ⟨x, s.ifId.pc⟩ }.memRead s.ifId.pc = .ok w := h
  exact ⟨_, idStage_of_read hx, rfl⟩

/-- Settles O3: closed words, which the encoder and the decoder are run on. -/
theorem writtenWordsDecode : Obligations.WrittenWordsDecode := by
  unfold Obligations.WrittenWordsDecode
  decide

end Sys2Proof.Machine
end

section
/-! PROOFS. The family 40_pipeline.md: what each stage does by the class of its word, what a run of many cycles is, and
the statements. -/

namespace Sys2Proof.Machine

/-! The engines on a latch that holds an instruction (40_pipeline.md R90). -/

theorem wbEngine_of_instr {s : State} {i : Instr} (h : s.memWb.instr = .ok i) : wbEngine s = exec i (s.atStage .wb) := by
  rw [wbEngine, h]

theorem memEngine_of_instr {s : State} {i : Instr} (h : s.exMem.instr = .ok i) :
    memEngine s = exec i (s.atStage .mem) := by
  rw [memEngine, h]

theorem exEngine_of_instr {s : State} {i : Instr} (h : s.idEx.instr = .ok i) : exEngine s = exec i (s.atStage .ex) := by
  rw [exEngine, h]

/-- Going on in two ways that agree on the state reached is the same. -/
theorem andThen_congr {r : Result} {k k' : State → Result} (h : ∀ t, r = .next t → k t = k' t) :
    andThen r k = andThen r k' := by
  cases r with
  | next t => exact h t rfl
  | fault _ => rfl
  | refused _ => rfl

/-! What a stage that answers `t` has left alone. -/

/-- `wbEngine_next` of a given answer. -/
theorem wbEngine_keeps {s t : State} (h : wbEngine s = .next t) : WbKeeps s t ∧ t.mem = s.mem := by
  obtain ⟨u, hu, hk, hm, -⟩ := wbEngine_next s
  cases h.symm.trans hu
  exact ⟨hk, hm⟩

/-- `exEngine_next` of a given answer. -/
theorem exEngine_keeps {s t : State} (h : exEngine s = .next t) : ExKeeps s t ∧ t.mem = s.mem := by
  obtain ⟨u, hu, -, hk, hm, -⟩ := exEngine_next s
  cases h.symm.trans hu
  exact ⟨hk, hm⟩

/-- ID writes `ID_EX` only (40_pipeline.md R94). -/
theorem idStage_next {s t : State} (h : idStage s = .next t) : t = { s with idEx := t.idEx } := by
  obtain ⟨w, -, h⟩ := withRead_next.mp h
  cases h
  rfl

/-- IF writes `IF_ID` and the PC of `NXT` only (40_pipeline.md R93). -/
theorem ifStage_next {s t : State} (h : ifStage s = .next t) :
    t = { s with ifId := t.ifId, nxt := { s.nxt with pc := t.nxt.pc } } := by
  obtain ⟨w, -, h⟩ := withRead_next.mp h
  cases h
  rfl

/-! What each stage does by class (40_pipeline.md R96 to R104). -/

/-- The opcode-0 words the decoder rejects are those of class UNREC. -/
theorem decodeSpecial_error_iff (f : Fields) :
    (∃ q, decodeSpecial f = .error q) ↔ exClass 0x00 f.funct f.rt = .unrec := by
  unfold decodeSpecial
  split <;> rename_i h
  case h_24 =>
    refine iff_of_true ⟨_, rfl⟩ ?_
    simp only [exClass, BitVec.toNat_eq, List.mem_cons, List.not_mem_nil, or_false]
    simp_all
  all_goals rw [six_eq_ofNat h]; exact iff_of_false nofun nofun

/-- The opcode-1 words the decoder rejects are those of class UNREC. -/
theorem decodeRegimm_error_iff (f : Fields) :
    (∃ q, decodeRegimm f = .error q) ↔ exClass 0x01 f.funct f.rt = .unrec := by
  unfold decodeRegimm
  split <;> rename_i h
  case h_3 =>
    refine iff_of_true ⟨_, rfl⟩ ?_
    simp only [exClass, BitVec.toNat_eq, List.mem_cons, List.not_mem_nil, or_false]
    simp_all
  all_goals rw [five_eq_ofNat h]; exact iff_of_false nofun nofun

/-- The words the decoder rejects are those of class UNREC (40_pipeline.md R97). -/
theorem decodeFields_error_iff (f : Fields) :
    (∃ q, decodeFields f = .error q) ↔ exClass f.opcode f.funct f.rt = .unrec := by
  unfold decodeFields
  split <;> rename_i h
  case h_1 => rw [six_eq_ofNat h]; exact decodeSpecial_error_iff f
  case h_2 => rw [six_eq_ofNat h]; exact decodeRegimm_error_iff f
  case h_22 =>
    refine iff_of_true ⟨_, rfl⟩ ?_
    simp only [exClass, BitVec.toNat_eq, List.mem_cons, List.not_mem_nil, or_false]
    simp_all
  all_goals rw [six_eq_ofNat h]; exact iff_of_false nofun nofun

/-- EX writes `EX_MEM.ALUOutput` in class COMPUTE only, and reports in class UNREC only (40_pipeline.md R96). -/
theorem exEngine_aluOutput_report {s t : State} (h : exEngine s = .next t) :
    (exClass s.idEx.opcode s.idEx.funct s.idEx.rt ≠ .compute → t.exMem.aluOutput = s.exMem.aluOutput) ∧
    t.reports.ex = (s.reports.ex || exClass s.idEx.opcode s.idEx.funct s.idEx.rt == .unrec) := by
  have hs := exEngine_shape s
  rw [h] at hs
  revert hs
  cases exClass s.idEx.opcode s.idEx.funct s.idEx.rt with
  | compute => rintro ⟨v, hs⟩; cases hs; exact ⟨fun hc => absurd rfl hc, (Bool.or_false _).symm⟩
  | hilo => rintro (hs | hs | ⟨_, _, hs⟩ | hs | hs) <;> cases hs <;> exact ⟨fun _ => rfl, (Bool.or_false _).symm⟩
  | halt => intro hs; cases hs.trans (exHalt_eq _); exact ⟨fun _ => rfl, (Bool.or_false _).symm⟩
  | inert => intro hs; cases hs; exact ⟨fun _ => rfl, (Bool.or_false _).symm⟩
  | unrec => intro hs; cases hs; exact ⟨fun _ => rfl, (Bool.or_true _).symm⟩

/-- The opcodes of class COMPUTE besides opcode 0 (40_pipeline.md R97). -/
theorem exClass_of_computeOpcode {op : Six} (fn : Six) (rt : Five)
    (h : op ∈ ([0x08, 0x09, 0x0A, 0x0C, 0x0D, 0x0E, 0x0F, 0x20, 0x21, 0x23, 0x28, 0x29, 0x2B] : List Six)) :
    exClass op fn rt = .compute := by
  have h0 : op ≠ 0x00 := fun e => absurd (e ▸ h) (by decide)
  have h1 : op ≠ 0x01 := fun e => absurd (e ▸ h) (by decide)
  rw [exClass, if_neg h0, if_neg h1, if_pos h]

/-- The opcodes whose class of MEM makes an access are the loads and stores (40_pipeline.md R101). -/
theorem mem_of_accesses {op : Six} (h : (memClass op).accesses = true) :
    op ∈ ([0x20, 0x21, 0x23, 0x28, 0x29, 0x2B] : List Six) := by
  unfold memClass at h
  split_ifs at h
  -- the first class, PASS, and the last, UNREC, make no access
  case pos | neg => cases h
  all_goals simp [*]

/-- A class of MEM that makes an access, and a class of WB that writes ALUOutput, come with class COMPUTE of EX: the
conclusion of 40_pipeline.md R96. -/
theorem exClass_eq_compute (op fn : Six) (rt : Five) (h : (memClass op).accesses = true ∨ wbClass op fn = .writeAlu) :
    exClass op fn rt = .compute := by
  rcases h with h | h
  · exact exClass_of_computeOpcode fn rt (List.Sublist.mem (mem_of_accesses h) (by decide))
  · unfold wbClass at h
    split_ifs at h with ho hf hop
    · rw [exClass, if_pos ho, if_pos (List.Sublist.mem hf (by decide))]
    · exact exClass_of_computeOpcode fn rt (List.Sublist.mem hop (by decide))

/-- MEM reports in class UNREC only (40_pipeline.md R99). -/
theorem memDo_report {c : MemClass} {s t : State} (h : memDo c s = .next t) :
    t.reports.mem = (s.reports.mem || c == .unrec) := by
  cases c
  case pass => cases h; exact (Bool.or_false _).symm
  case loadb | loadh | loadw =>
    obtain ⟨w, -, h⟩ := withRead_next.mp h
    cases h
    exact (Bool.or_false _).symm
  case storeb | storeh =>
    obtain ⟨w, -, h⟩ := withRead_next.mp h
    obtain ⟨m, -, rfl⟩ := memWrite_next.mp h
    exact (Bool.or_false _).symm
  case storew =>
    obtain ⟨m, -, rfl⟩ := memWrite_next.mp h
    exact (Bool.or_false _).symm
  case unrec => cases h; exact (Bool.or_true _).symm

/-- The same of the engine, by the class of `EX_MEM.opcode`. -/
theorem memEngine_report {s t : State} (h : memEngine s = .next t) :
    t.reports.mem = (s.reports.mem || memClass s.exMem.opcode == .unrec) :=
  memDo_report (s := s.atStage .mem) ((memEngine_eq s).symm.trans h)

/-- MEM stops with the fault of the access its class makes (40_pipeline.md R99). -/
theorem memEngine_fault {s : State} {f : Fault} (hf : s.memRead s.exMem.aluOutput = .error f)
    (hc : (memClass s.exMem.opcode).accesses = true) : memEngine s = .fault f := by
  have hover : ¬ s.platform.noOverrun s.exMem.aluOutput := fun hno => by
    obtain ⟨w, hw⟩ := (read32_ok_iff s.platform s.mem s.exMem.aluOutput).mpr hno
    cases hf.symm.trans hw
  rw [read32_error hf]
  exact (memEngine_nextIff s).2 fun h => hover (h hc)

/-- WB reports in class UNREC only (40_pipeline.md R103). -/
theorem wbDo_report {c : WbClass} {s t : State} (h : wbDo c s = .next t) :
    t.reports.wb = (s.reports.wb || c == .unrec) := by
  cases c
  case writeAlu | writeLmd | none => cases h; exact (Bool.or_false _).symm
  case unrec => cases h; exact (Bool.or_true _).symm

/-- The same of the engine, by the class of `MEM_WB.opcode` and `MEM_WB.funct`. -/
theorem wbEngine_report {s t : State} (h : wbEngine s = .next t) :
    t.reports.wb = (s.reports.wb || wbClass s.memWb.opcode s.memWb.funct == .unrec) :=
  wbDo_report (s := s.atStage .wb) ((wbEngine_eq s).symm.trans h)

/-! A run of many cycles (40_pipeline.md R106). -/

theorem runFor_running {s : State} (h : s.run = true) (n : Nat) : runFor (n + 1) s = andThen (cycle s) (runFor n) :=
  if_pos h

/-- A halted core takes no cycle, however many it may. -/
theorem runFor_halted {s : State} (h : s.run = false) (n : Nat) : runFor n s = .next s := by
  cases n with
  | zero => rfl
  | succ n => simp [runFor, h]

/-- A run can be cut anywhere. -/
theorem runFor_add (m n : Nat) (s : State) : runFor (m + n) s = andThen (runFor m s) (runFor n) := by
  induction m generalizing s with
  | zero => rw [Nat.zero_add]; rfl
  | succ m ih =>
    cases h : s.run with
    | false => rw [runFor_halted h, runFor_halted h]; exact (runFor_halted h n).symm
    | true =>
      rw [Nat.succ_add, runFor_running h, runFor_running h, andThen_assoc]
      exact congrArg (andThen _) (funext ih)

/-- A run that has halted ends there, however many more cycles it may take. -/
theorem runFor_add_of_halted {m : Nat} {s t : State} (h : runFor m s = .next t) (ht : t.run = false) (n : Nat) :
    runFor (m + n) s = .next t := by
  rw [runFor_add, h]
  exact runFor_halted ht n

/-- A run counts at most its cycles, and all of them unless it halts. -/
theorem runFor_cycleCount {n : Nat} {s t : State} (h : runFor n s = .next t) :
    t.cycleCount ≤ s.cycleCount + n ∧ (t.run = true → t.cycleCount = s.cycleCount + n) := by
  induction n generalizing s with
  | zero => cases h; exact ⟨Nat.le_refl _, fun _ => rfl⟩
  | succ n ih =>
    cases hrun : s.run with
    | false =>
      cases (runFor_halted hrun _).symm.trans h
      exact ⟨Nat.le_add_right _ _, fun ht => absurd (hrun.symm.trans ht) Bool.false_ne_true⟩
    | true =>
      obtain ⟨u, hu, h⟩ := andThen_next.mp ((runFor_running hrun n).symm.trans h)
      have hcount := (step_effect hrun ((step_running hrun).trans hu)).cycleCount
      obtain ⟨hle, heq⟩ := ih h
      exact ⟨by omega, fun ht => by rw [heq ht]; omega⟩

/-! The statements. -/

/-- Settles O12: what each stage keeps, and the commit of `step_effect`. -/
theorem commitCopiesNext : Obligations.CommitCopiesNext := by
  refine ⟨fun _ => ⟨rfl, rfl⟩, fun s t h => ?_, fun s t hrun h => (step_effect hrun h).committed⟩
  rcases h with h | h | h | h | h
  · exact (wbEngine_keeps h).1.cur
  · exact (memEngine_next h).2.1.cur
  · exact (exEngine_keeps h).1.cur
  · rw [idStage_next h]
  · rw [ifStage_next h]

/-- Settles O15 by `exEngine_next`, which splits on the class of the latched word. -/
theorem executePassesItsLatchOn : Obligations.ExecutePassesItsLatchOn := by
  intro s
  obtain ⟨t, ht, hp, hk, -⟩ := exEngine_next s
  exact ⟨t, ht, hp, hk⟩

/-- Settles O16: one lemma for each part of the table, each by the class of EX. -/
theorem executeFollowsItsClassTable : Obligations.ExecuteFollowsItsClassTable := by
  refine ⟨fun s => ?_, fun w => decodeFields_error_iff (fieldsOf w), exClass_eq_compute⟩
  obtain ⟨t, ht, -⟩ := exEngine_next s
  obtain ⟨halu, hreport⟩ := exEngine_aluOutput_report ht
  refine ⟨t, ht, halu, exEngine_keepsHiLo ht, ?_, hreport⟩
  rw [exEngine_run ht, Bool.if_false_left, Bool.and_comm, Bool.decide_and]
  rfl

/-- Settles O17: the engine by its class (`memEngine_eq`), the access of the class by `withRead_next` and
`memWrite_next`; a store after a read answers because both look at the same region. -/
theorem memoryStageFollowsItsClassTable : Obligations.MemoryStageFollowsItsClassTable := by
  refine ⟨fun s t h => ?_, fun s hc => ?_, fun s hc => ?_, fun s w hw => ?_, fun s f hf hc => ?_, fun s t h => ?_⟩
  · obtain ⟨hp, hk, -⟩ := memEngine_next h
    exact ⟨hp, hk, memEngine_report h⟩
  · rw [memEngine_eq, hc]
    exact ⟨_, rfl, rfl, rfl, rfl⟩
  · rw [memEngine_eq, hc]
    exact ⟨_, rfl, rfl, rfl, rfl⟩
  · have hok (v : Word) := (write32_ok_iff s.platform s.mem s.exMem.aluOutput v).mpr ((read32_ok_iff _ _ _).mp ⟨w, hw⟩)
    refine ⟨fun hc => ?_, fun hc => ?_, fun hc => ?_, fun hc => ?_, fun hc => ?_, fun hc => ?_⟩ <;>
      rw [memEngine_eq, hc]
    · exact ⟨_, withRead_next.mpr ⟨w, hw, rfl⟩, rfl, rfl, BitVec.toInt_signExtend_of_le (by decide)⟩
    · exact ⟨_, withRead_next.mpr ⟨w, hw, rfl⟩, rfl, rfl, BitVec.toInt_signExtend_of_le (by decide)⟩
    · exact ⟨_, withRead_next.mpr ⟨w, hw, rfl⟩, rfl, rfl, rfl⟩
    · obtain ⟨m, hm⟩ := hok (mergeByte w s.exMem.b)
      exact ⟨_, withRead_next.mpr ⟨w, hw, memWrite_next.mpr ⟨m, hm, rfl⟩⟩, hm, rfl, rfl⟩
    · obtain ⟨m, hm⟩ := hok (mergeHalf w s.exMem.b)
      exact ⟨_, withRead_next.mpr ⟨w, hw, memWrite_next.mpr ⟨m, hm, rfl⟩⟩, hm, rfl, rfl⟩
    · obtain ⟨m, hm⟩ := hok s.exMem.b
      exact ⟨_, memWrite_next.mpr ⟨m, hm, rfl⟩, hm, rfl, rfl⟩
  · exact memEngine_fault hf hc
  · rcases h with h | h | h | h
    · exact (wbEngine_keeps h).2
    · exact (exEngine_keeps h).2
    · rw [idStage_next h]
    · rw [ifStage_next h]

/-- Settles O18 by `wbEngine_next` and `wbEngine_report`; the commit makes `NXT` visible by definition. -/
theorem writebackFollowsItsClassTable : Obligations.WritebackFollowsItsClassTable := by
  intro s
  obtain ⟨t, ht, hk, -, hregs⟩ := wbEngine_next s
  exact ⟨t, ht, hk, hregs, wbEngine_report ht, rfl⟩

/-- Settles O19 by the count of `step_effect`. -/
theorem instructionCounterRule : Obligations.InstructionCounterRule := by
  intro s t hrun h
  rw [(step_effect hrun h).instrCount]
  exact ⟨fun hir => by rw [if_neg hir], fun hir => by rw [if_pos hir, Nat.add_zero]⟩

/-- Settles O24: two runs to completion, each given the other's cycles too, are one run. -/
theorem runStopsAtTheHalt : Obligations.RunStopsAtTheHalt := by
  refine ⟨fun _ _ _ => runFor_cycleCount, runFor_add, ?_⟩
  rintro s t u ⟨m, hm, ht⟩ ⟨n, hn, hu⟩
  have hmn := runFor_add_of_halted hm ht n
  rw [Nat.add_comm, runFor_add_of_halted hn hu m] at hmn
  cases hmn
  rfl

/-- Settles O10: WB keeps `EX_MEM`, and WB and MEM keep `ID_EX`, so the later engines find the instructions that were
latched at the start. -/
theorem stepRunsTheLatchedInstructions : Obligations.StepRunsTheLatchedInstructions := by
  intro s iw im ie hrun hiw him hie
  rw [step_running hrun, cycle, wbEngine_of_instr (s := clearReports s) hiw]
  refine andThen_congr fun s₁ h₁ => ?_
  obtain ⟨kw, -⟩ := wbEngine_keeps ((wbEngine_of_instr (s := clearReports s) hiw).trans h₁)
  have him₁ : s₁.exMem.instr = .ok im := kw.exMem ▸ him
  rw [memEngine_of_instr him₁]
  refine andThen_congr fun s₂ h₂ => ?_
  obtain ⟨-, km, -⟩ := memEngine_next ((memEngine_of_instr him₁).trans h₂)
  rw [exEngine_of_instr (i := ie) ((km.idEx.trans kw.idEx) ▸ hie)]

/-- Settles O13: `withRead_next` gives the state IF answers. -/
theorem fetchAdvancesSequentially : Obligations.FetchAdvancesSequentially :=
  fun s _ h => ⟨_, withRead_next.mpr ⟨_, h, rfl⟩, rfl, rfl, BitVec.toNat_add s.cur.pc 4, rfl⟩

end Sys2Proof.Machine
end

section
/-! PROOFS. The family 41_shift.md: the register an instruction names for its result, the predicates of EX, MEM and WB
from what `exec` answers in each stage, and the statement. -/

namespace Sys2Proof.Machine

/-! The words of opcode 0 (30_encoding.md R74). -/

/-- Opcode 0 goes to the second level of the opcode map. -/
theorem decodeFields_of_opcode_zero {f : Fields} (h : f.opcode = 0) : decodeFields f = decodeSpecial f := by
  rw [decodeFields, h]
  rfl

/-- A word packed with opcode 0 is decoded by its funct; its immediate and target, which overlap the other fields, are
not looked at. -/
theorem decode_packR_special (rs rt rd sa : Five) (fn : Six) (imm : Half) (target : BitVec 26) :
    decode (packR 0x00 rs rt rd sa fn) = decodeSpecial ⟨0x00, rs, rt, rd, sa, fn, imm, target⟩ := by
  obtain ⟨ho, hrs, hrt, hrd, hsa, hfn⟩ := fieldsOf_packR 0x00 rs rt rd sa fn
  rw [decode, decodeFields_of_opcode_zero ho]
  simp only [decodeSpecial, hrs, hrt, hrd, hsa, hfn]

/-! The register a result is meant for (40_pipeline.md R95). -/

/-- The register an instruction of class COMPUTE names for its result: rd under opcode 0, else rt. -/
def resultRegister : Instr → Option Five
  | .sll _ _ rd _ | .srl _ _ rd _ | .sra _ _ rd _ | .mfhi _ _ rd _ | .mflo _ _ rd _
  | .add _ _ rd _ | .addu _ _ rd _ | .sub _ _ rd _ | .subu _ _ rd _ | .and _ _ rd _ | .or _ _ rd _ | .xor _ _ rd _
  | .nor _ _ rd _ | .slt _ _ rd _ => some rd
  | .addi _ rt _ | .addiu _ rt _ | .slti _ rt _ | .andi _ rt _ | .ori _ rt _ | .xori _ rt _ | .lui _ rt _
  | .lb _ rt _ | .lh _ rt _ | .lw _ rt _ | .sb _ rt _ | .sh _ rt _ | .sw _ rt _ => some rt
  | _ => none

/-- Under opcode 0 the named register is the rd field. -/
theorem rd_of_decodeSpecial {f : Fields} {i : Instr} {d : Five} (h : decodeSpecial f = .ok i)
    (hd : resultRegister i = some d) : f.rd = d := by
  unfold decodeSpecial at h
  split at h <;> cases h <;> cases hd <;> rfl

/-- Under every other opcode it is the rt field. -/
theorem rt_of_decodeFields {f : Fields} {i : Instr} {d : Five} (hz : f.opcode ≠ 0) (h : decodeFields f = .ok i)
    (hd : resultRegister i = some d) : f.rt = d := by
  unfold decodeFields at h
  split at h
  case h_1 ho => exact absurd (six_eq_ofNat ho) hz
  case h_2 =>
    unfold decodeRegimm at h
    split at h <;> cases h <;> cases hd
  all_goals cases h <;> cases hd <;> rfl

/-- The destination EX picks is the register the latched instruction names. -/
theorem destination_of_instr {l : IdEx} {i : Instr} {d : Five} (h : l.instr = .ok i) (hd : resultRegister i = some d) :
    l.destination = d := by
  by_cases hz : l.opcode = 0
  · have hspecial : decodeSpecial l.fields = .ok i := (decodeFields_of_opcode_zero hz).symm.trans h
    exact (if_pos hz).trans (rd_of_decodeSpecial hspecial hd)
  · exact (if_neg hz).trans (rt_of_decodeFields hz h hd)

/-! What an instruction does in a stage, from the class `exec` has there. -/

/-- Class COMPUTE in EX (40_pipeline.md R95, R96). -/
theorem computes_of_exCompute {i : Instr} {d : Five} {v : State → Word} (hd : resultRegister i = some d)
    (h : ∀ s, s.stage = .ex → exec i s = exCompute (v s) s) : Computes i d v :=
  fun s hs hi => ⟨_, h s hs, rfl, destination_of_instr hi hd, by constructor <;> rfl, by constructor <;> (intros; rfl),
    ⟨rfl, rfl⟩, rfl, rfl⟩

/-- Class PASS in MEM (40_pipeline.md R99). -/
theorem passesMem_of_memPass {i : Instr} (h : ∀ s, s.stage = .mem → exec i s = memPass s) : PassesMem i :=
  fun s hs => ⟨_, h s hs, rfl, rfl, fun _ => rfl, by constructor <;> rfl, by constructor <;> rfl, rfl⟩

/-- Class NONE in WB (40_pipeline.md R103). -/
theorem writesNoRegister_of_wbNone {i : Instr} (h : ∀ s, s.stage = .wb → exec i s = wbNone s) : WritesNoRegister i := by
  intro s hs
  obtain ⟨t, ht, hk, -, -, -, hregs⟩ := wbDo_next .none s
  exact ⟨t, (h s hs).trans ht, hregs, hk, (wbDo_report ht).trans (Bool.or_false _)⟩

/-! The three shifts as arithmetic (41_shift.md R130 to R132). -/

/-- A shift to the left is a product, modulo the size of the word. -/
theorem shiftLeft_eq_mul (b : Word) (n : Nat) : b <<< n = BitVec.ofNat 32 (b.toNat * 2 ^ n) := by
  rw [← Nat.shiftLeft_eq]
  rfl

/-- A logical shift to the right is a quotient of the unsigned value. -/
theorem ushiftRight_eq_div (b : Word) (n : Nat) : b >>> n = BitVec.ofNat 32 (b.toNat / 2 ^ n) := by
  rw [← Nat.shiftRight_eq_div_pow, ← BitVec.toNat_ushiftRight, BitVec.ofNat_toNat, BitVec.setWidth_eq]

/-- An arithmetic shift to the right is the floor of the quotient of the signed value. -/
theorem sshiftRight_eq_div (b : Word) (n : Nat) : b.sshiftRight n = BitVec.ofInt 32 (b.toInt / 2 ^ n) := by
  rw [BitVec.sshiftRight_eq, Int.shiftRight_eq_div_pow, Nat.cast_pow, Nat.cast_ofNat]

/-- The bit-invert form of the arithmetic shift (41_shift.md R132). -/
theorem sshiftRight_eq_invert (b : Word) (n : Nat) : b.sshiftRight n = if b.msb then ~~~((~~~b) >>> n) else b >>> n := by
  split
  case isTrue hneg => exact BitVec.sshiftRight_eq_of_msb_true hneg
  case isFalse hnonneg => exact BitVec.sshiftRight_eq_of_msb_false (Bool.eq_false_of_not_eq_true hnonneg)

/-! The statement. -/

/-- Settles O28: each shift is of class COMPUTE, PASS and NONE, and its value is the arithmetic of the rule. -/
theorem shiftsComputeAndDrop : Obligations.ShiftsComputeAndDrop := by
  intro rs rt rd sa
  refine ⟨
    ⟨decode_packR_special rs rt rd sa 0x00 0 0, computes_of_exCompute rfl fun s hs => ?sll,
      passesMem_of_memPass fun _ => byStage_mem, writesNoRegister_of_wbNone fun _ => byStage_wb⟩,
    ⟨decode_packR_special rs rt rd sa 0x02 0 0, computes_of_exCompute rfl fun s hs => ?srl,
      passesMem_of_memPass fun _ => byStage_mem, writesNoRegister_of_wbNone fun _ => byStage_wb⟩,
    ⟨decode_packR_special rs rt rd sa 0x03 0 0, computes_of_exCompute rfl fun s hs => ?sra,
      passesMem_of_memPass fun _ => byStage_mem, writesNoRegister_of_wbNone fun _ => byStage_wb⟩,
    fun b => ?invert⟩
  case sll => rw [← shiftLeft_eq_mul]; exact byStage_ex hs
  case srl => rw [← ushiftRight_eq_div]; exact byStage_ex hs
  case sra => rw [← sshiftRight_eq_div]; exact byStage_ex hs
  case invert => rw [← sshiftRight_eq_div, sshiftRight_eq_invert]

end Sys2Proof.Machine
end

section
/-! PROOFS. The family 42_hilo_muldiv.md: the frame of class HILO in EX, the cases of DIV and DIVU, the arithmetic of the
products, quotients and remainders, and the statements. -/

namespace Sys2Proof.Machine

/-! Class HILO in EX (40_pipeline.md R95, R96). -/

/-- Whatever class HILO writes to HI and LO of `NXT`, EX ends, passes its latch on and changes nothing else. -/
theorem next_of_hilo_shape {s : State} {r : Result} (h : ExShape .hilo s r) :
    ∃ t, r = .next t ∧ t.exMem.aluOutput = s.exMem.aluOutput ∧ ExPassed s t ∧ ExKeeps s t ∧ t.run = s.run ∧
      t.reports.ex = s.reports.ex := by
  rcases h with h | h | ⟨_, _, h⟩ | h | h <;>
    exact ⟨_, h, rfl, by constructor <;> rfl, by constructor <;> (intros; rfl), rfl, rfl⟩

/-- To write one of the two, or none, is to write the other back as it is. -/
theorem exHi_eq_exHiLo (v : Word) (s : State) : exHi v s = exHiLo v s.nxt.lo s := rfl

theorem exLo_eq_exHiLo (v : Word) (s : State) : exLo v s = exHiLo s.nxt.hi v s := rfl

theorem exInert_eq_exHiLo (s : State) : exInert s = exHiLo s.nxt.hi s.nxt.lo s := rfl

/-- For an instruction that writes both it remains to say what the two values are. -/
theorem setsHiLo_of_exHiLo {i : Instr} {hi lo : State → Word} {pre : State → Prop} {post : State → Word → Word → Prop}
    (hex : ∀ s, s.stage = .ex → pre s → exec i s = exHiLo (hi s) (lo s) s) (hpost : ∀ s, pre s → post s (hi s) (lo s)) :
    SetsHiLo i pre post := by
  intro s hs hpre
  have hshape : ExShape .hilo s (exHiLo (hi s) (lo s) s) := .inr (.inr (.inl ⟨_, _, rfl⟩))
  obtain ⟨t, ht, hframe⟩ := next_of_hilo_shape hshape
  have hwritten : post s t.nxt.hi t.nxt.lo := by cases ht; exact hpost s hpre
  exact ⟨t, (hex s hs hpre).trans ht, hwritten, hframe⟩

/-! The cases of the two divisions (42_hilo_muldiv.md R141, R142). -/

/-- DIV skips a zero divisor. -/
theorem divide_of_zero {s : State} (h : s.idEx.b = 0) : divide s = exInert s := if_pos h

/-- DIV of any other operands but those of the open case writes remainder and quotient. -/
theorem divide_of_ordinary {s : State} (hb : s.idEx.b ≠ 0) (hopen : ¬ (s.idEx.a = 0x80000000 ∧ s.idEx.b = 0xFFFFFFFF)) :
    divide s = exHiLo (signedRemainder s.idEx.a s.idEx.b) (signedQuotient s.idEx.a s.idEx.b) s :=
  (if_neg hb).trans (if_neg hopen)

/-- DIVU skips a zero divisor. -/
theorem divideUnsigned_of_zero {s : State} (h : s.idEx.b = 0) : divideUnsigned s = exInert s := if_pos h

/-- DIVU of any other divisor writes the word remainder and the word quotient. -/
theorem divideUnsigned_of_ne_zero {s : State} (h : s.idEx.b ≠ 0) :
    divideUnsigned s = exHiLo (s.idEx.a % s.idEx.b) (s.idEx.a / s.idEx.b) s := by
  rw [BitVec.umod_def, BitVec.udiv_def]
  exact if_neg h

/-! The products (42_hilo_muldiv.md R139, R140). -/

/-- The two halves make up the product. -/
theorem highHalf_append_lowHalf (p : BitVec 64) : highHalf p ++ lowHalf p = p :=
  BitVec.extractLsb'_append_extractLsb'

/-- Two signed words have their product within 64 bits. -/
theorem toInt_signedProduct (a b : Word) : (signedProduct a b).toInt = a.toInt * b.toInt := by
  have hle : a.toInt * b.toInt ≤ 2 ^ 62 := BitVec.toInt_mul_toInt_le
  have hge : -2 ^ 62 ≤ a.toInt * b.toInt := BitVec.le_toInt_mul_toInt
  rw [signedProduct, BitVec.toInt_mul, BitVec.toInt_signExtend_of_le (by decide), BitVec.toInt_signExtend_of_le (by decide)]
  exact Int.bmod_eq_of_le (by omega) (by omega)

/-- Two unsigned words have their product within 64 bits. -/
theorem toNat_unsignedProduct (a b : Word) : (unsignedProduct a b).toNat = a.toNat * b.toNat := by
  have hlt : a.toNat * b.toNat < 2 ^ 64 := BitVec.toNat_mul_toNat_lt
  rw [unsignedProduct, BitVec.toNat_mul, BitVec.toNat_setWidth_of_le (by decide), BitVec.toNat_setWidth_of_le (by decide),
    Nat.mod_eq_of_lt hlt]

/-! The signed quotient and remainder (42_hilo_muldiv.md R141). -/

/-- The quotient toward zero is a signed word in all but the open case. -/
theorem toInt_signedQuotient {a b : Word} (hopen : ¬ (a = 0x80000000 ∧ b = 0xFFFFFFFF)) :
    (signedQuotient a b).toInt = a.toInt.tdiv b.toInt := by
  rw [signedQuotient, BitVec.toInt_ofInt, ← BitVec.toInt_sdiv]
  exact BitVec.toInt_sdiv_of_ne_or_ne a b (not_and_or.mp hopen)

/-- The remainder of the quotient toward zero is always a signed word. -/
theorem toInt_signedRemainder (a b : Word) : (signedRemainder a b).toInt = a.toInt.tmod b.toInt := by
  rw [signedRemainder, ← BitVec.toInt_srem, BitVec.ofInt_toInt]

/-- Quotient and remainder make up the dividend. -/
theorem toInt_signedRemainder_eq_sub {a b : Word} (hopen : ¬ (a = 0x80000000 ∧ b = 0xFFFFFFFF)) :
    (signedRemainder a b).toInt = a.toInt - (signedQuotient a b).toInt * b.toInt := by
  rw [toInt_signedRemainder, toInt_signedQuotient hopen, Int.tmod_def, Int.mul_comm]

/-- The remainder is smaller than the divisor. -/
theorem natAbs_signedRemainder_lt (a : Word) {b : Word} (hb : b ≠ 0) :
    (signedRemainder a b).toInt.natAbs < b.toInt.natAbs := by
  rw [toInt_signedRemainder, Int.natAbs_tmod]
  exact Nat.mod_lt _ (Int.natAbs_pos.mpr fun h => hb (BitVec.eq_of_toInt_eq h))

/-- The remainder has the sign of the dividend, unless it is zero. -/
theorem signedRemainder_neg_iff {a b : Word} (h : (signedRemainder a b).toInt ≠ 0) :
    (signedRemainder a b).toInt < 0 ↔ a.toInt < 0 := by
  rw [toInt_signedRemainder] at h ⊢
  have hsign : (a.toInt.tmod b.toInt).sign = a.toInt.sign := by
    rw [Int.sign_tmod, if_neg (mt Int.tmod_eq_zero_of_dvd h)]
  rw [← Int.sign_eq_neg_one_iff_neg, hsign, Int.sign_eq_neg_one_iff_neg]

/-! The statements. -/

/-- Settles O29: both moves are of class COMPUTE, PASS and NONE. -/
theorem moveFromHiLoComputesAndDrops : Obligations.MoveFromHiLoComputesAndDrops := fun rs rt rd sa => ⟨
  ⟨decode_packR_special rs rt rd sa 0x10 0 0, computes_of_exCompute rfl fun _ => byStage_ex,
    passesMem_of_memPass fun _ => byStage_mem, writesNoRegister_of_wbNone fun _ => byStage_wb⟩,
  ⟨decode_packR_special rs rt rd sa 0x12 0 0, computes_of_exCompute rfl fun _ => byStage_ex,
    passesMem_of_memPass fun _ => byStage_mem, writesNoRegister_of_wbNone fun _ => byStage_wb⟩⟩

/-- Settles O30: both moves are of class HILO, and each writes the accumulator it names. -/
theorem moveToHiLoWritesOne : Obligations.MoveToHiLoWritesOne := fun rs rt rd sa => ⟨
  ⟨decode_packR_special rs rt rd sa 0x11 0 0,
    setsHiLo_of_exHiLo (fun s hs _ => (byStage_ex hs).trans (exHi_eq_exHiLo s.idEx.a s)) fun _ _ => ⟨rfl, rfl⟩,
    passesMem_of_memPass fun _ => byStage_mem, writesNoRegister_of_wbNone fun _ => byStage_wb⟩,
  ⟨decode_packR_special rs rt rd sa 0x13 0 0,
    setsHiLo_of_exHiLo (fun s hs _ => (byStage_ex hs).trans (exLo_eq_exHiLo s.idEx.a s)) fun _ _ => ⟨rfl, rfl⟩,
    passesMem_of_memPass fun _ => byStage_mem, writesNoRegister_of_wbNone fun _ => byStage_wb⟩⟩

/-- Settles O31: the halves written make up the product, which 64 bits hold without loss. -/
theorem multiplyGivesTheProduct : Obligations.MultiplyGivesTheProduct := by
  intro rs rt rd sa
  refine ⟨
    ⟨decode_packR_special rs rt rd sa 0x18 0 0, setsHiLo_of_exHiLo (fun _ hs _ => byStage_ex hs) fun s _ => ?mult,
      passesMem_of_memPass fun _ => byStage_mem, writesNoRegister_of_wbNone fun _ => byStage_wb⟩,
    ⟨decode_packR_special rs rt rd sa 0x19 0 0, setsHiLo_of_exHiLo (fun _ hs _ => byStage_ex hs) fun s _ => ?multu,
      passesMem_of_memPass fun _ => byStage_mem, writesNoRegister_of_wbNone fun _ => byStage_wb⟩⟩
  case mult => rw [highHalf_append_lowHalf, toInt_signedProduct]
  case multu => rw [highHalf_append_lowHalf, toNat_unsignedProduct]

/-- Settles O32: by the three cases of the operands; outside the open case the quotient is a signed word. -/
theorem divideSigned : Obligations.DivideSigned := by
  intro rs rt rd sa
  refine ⟨decode_packR_special rs rt rd sa 0x1A 0 0, ?zero, ?overflow, ?ordinary,
    passesMem_of_memPass fun _ => byStage_mem, writesNoRegister_of_wbNone fun _ => byStage_wb⟩
  case zero =>
    exact setsHiLo_of_exHiLo
      (fun s hs hb => (byStage_ex hs).trans ((divide_of_zero hb).trans (exInert_eq_exHiLo s))) fun _ _ => ⟨rfl, rfl⟩
  case overflow =>
    intro s hs _
    obtain ⟨t, ht, hframe⟩ := next_of_hilo_shape (divide_shape s)
    exact ⟨t, (byStage_ex hs).trans ht, trivial, hframe⟩
  case ordinary =>
    exact setsHiLo_of_exHiLo (fun s hs ⟨hb, hopen⟩ => (byStage_ex hs).trans (divide_of_ordinary hb hopen))
      fun s ⟨hb, hopen⟩ => ⟨toInt_signedQuotient hopen, toInt_signedRemainder_eq_sub hopen,
        natAbs_signedRemainder_lt s.idEx.a hb, signedRemainder_neg_iff⟩

/-- Settles O33 (the model's `divideUnsigned` has the plain name): the words written are the quotient and the remainder
of the natural numbers. -/
theorem divideUnsigned_spec : Obligations.DivideUnsigned := by
  intro rs rt rd sa
  refine ⟨decode_packR_special rs rt rd sa 0x1B 0 0, ?zero, ?ordinary,
    passesMem_of_memPass fun _ => byStage_mem, writesNoRegister_of_wbNone fun _ => byStage_wb⟩
  case zero =>
    exact setsHiLo_of_exHiLo
      (fun s hs hb => (byStage_ex hs).trans ((divideUnsigned_of_zero hb).trans (exInert_eq_exHiLo s)))
      fun _ _ => ⟨rfl, rfl⟩
  case ordinary =>
    exact setsHiLo_of_exHiLo (fun s hs hb => (byStage_ex hs).trans (divideUnsigned_of_ne_zero hb))
      fun s hb => ⟨(Nat.div_add_mod s.idEx.a.toNat s.idEx.b.toNat).symm,
        BitVec.umod_lt s.idEx.a ((BitVec.pos_iff_ne_zero _).mpr hb)⟩

end Sys2Proof.Machine
end

section
/-! PROOFS. The family 43_alu_register.md: class WRITE_ALU in WB, what an instruction that is computed, passed and
written back does, the difference as arithmetic, and the statements. -/

namespace Sys2Proof.Machine

/-! What an instruction does in its three stages, from the class `exec` has in each. -/

/-- Class WRITE_ALU in WB (40_pipeline.md R103). -/
theorem writesBack_of_wbWriteAlu {i : Instr} (h : ∀ s, s.stage = .wb → exec i s = wbWriteAlu s) :
    WritesBack i (fun s => s.memWb.aluOutput) := by
  intro s hs
  obtain ⟨t, ht, hk, -, -, -, hregs⟩ := wbDo_next .writeAlu s
  exact ⟨t, (h s hs).trans ht, (hregs _).trans (if_pos rfl), fun r hr => (hregs r).trans (if_neg hr), hk,
    (wbDo_report ht).trans (Bool.or_false _)⟩

/-- The stages of the writeback whitelist, COMPUTE, PASS and WRITE_ALU (43_alu_register.md): it remains to say what is
computed, and for which register. -/
theorem writesResult_of_byStage {i : Instr} {d : Five} {v : State → Word} (hd : resultRegister i = some d)
    (h : ∀ s, exec i s = byStage (exCompute (v s)) memPass wbWriteAlu s) :
    Computes i d v ∧ PassesMem i ∧ WritesBack i (fun s => s.memWb.aluOutput) :=
  ⟨computes_of_exCompute hd fun s hs => (h s).trans (byStage_ex hs),
    passesMem_of_memPass fun s hs => (h s).trans (byStage_mem hs),
    writesBack_of_wbWriteAlu fun s hs => (h s).trans (byStage_wb hs)⟩

/-! The difference as arithmetic (43_alu_register.md R147, R148). -/

/-- The wrapped difference is the difference of the unsigned values, modulo the size of the word. -/
theorem sub_eq_ofInt (a b : Word) : a - b = BitVec.ofInt 32 (a.toNat - b.toNat : Int) := by
  rw [Int.sub_eq_add_neg, BitVec.ofInt_add, BitVec.ofInt_neg, BitVec.sub_eq_add_neg]
  simp only [BitVec.ofInt_natCast, BitVec.ofNat_toNat, BitVec.setWidth_eq]

/-! The statements. -/

/-- Settles O34: each of the eight is of class COMPUTE, PASS and WRITE_ALU; sum and difference are those of the
unsigned values. -/
theorem registerAluWritesRd : Obligations.RegisterAluWritesRd := by
  intro rs rt rd sa
  refine ⟨
    ⟨decode_packR_special rs rt rd sa 0x20 0 0, writesResult_of_byStage rfl fun s => ?add⟩,
    ⟨decode_packR_special rs rt rd sa 0x21 0 0, writesResult_of_byStage rfl fun s => ?addu⟩,
    ⟨decode_packR_special rs rt rd sa 0x22 0 0, writesResult_of_byStage rfl fun s => ?sub⟩,
    ⟨decode_packR_special rs rt rd sa 0x23 0 0, writesResult_of_byStage rfl fun s => ?subu⟩,
    ⟨decode_packR_special rs rt rd sa 0x24 0 0, writesResult_of_byStage rfl fun _ => rfl⟩,
    ⟨decode_packR_special rs rt rd sa 0x25 0 0, writesResult_of_byStage rfl fun _ => rfl⟩,
    ⟨decode_packR_special rs rt rd sa 0x26 0 0, writesResult_of_byStage rfl fun _ => rfl⟩,
    ⟨decode_packR_special rs rt rd sa 0x27 0 0, writesResult_of_byStage rfl fun _ => rfl⟩⟩
  case add | addu => rw [← BitVec.add_def]; rfl
  case sub | subu => rw [← sub_eq_ofInt]; rfl

/-- Settles O35: SLT is of class COMPUTE, PASS and NONE, and the value it drops is `setIfBelow`, the unsigned compare. -/
theorem setOnLessThanComparesUnsigned : Obligations.SetOnLessThanComparesUnsigned := fun rs rt rd sa =>
  ⟨decode_packR_special rs rt rd sa 0x2A 0 0, computes_of_exCompute rfl fun _ => byStage_ex,
    passesMem_of_memPass fun _ => byStage_mem, writesNoRegister_of_wbNone fun _ => byStage_wb⟩

end Sys2Proof.Machine
end

section
/-! PROOFS. The family 44_alu_immediate.md: the words of the I-format, class UNREC in WB, the widenings of an immediate
as arithmetic, and the statements. -/

namespace Sys2Proof.Machine

/-! The words of the I-format (30_encoding.md R70, R74). -/

/-- A packed word is decoded from the four fields it was packed from; the others overlap them. -/
theorem decode_packI (op : Six) (rs rt : Five) (imm : Half) :
    decode (packI op rs rt imm) =
      decodeFields { fieldsOf (packI op rs rt imm) with opcode := op, rs := rs, rt := rt, imm := imm } := by
  obtain ⟨ho, hrs, hrt, himm⟩ := fieldsOf_packI op rs rt imm
  rw [decode]
  congr 1
  rw [Fields.mk.injEq]
  exact ⟨ho, hrs, hrt, rfl, rfl, rfl, himm, rfl⟩

/-! What an instruction does in WB, from the class `exec` has there. -/

/-- Class UNREC in WB (40_pipeline.md R103). -/
theorem reportedByWb_of_wbUnrec {i : Instr} (h : ∀ s, s.stage = .wb → exec i s = wbUnrec s) : ReportedByWb i := by
  intro s hs
  obtain ⟨t, ht, hk, -, -, -, hregs⟩ := wbDo_next .unrec s
  exact ⟨t, (h s hs).trans ht, hregs, hk, (wbDo_report ht).trans (Bool.or_true _)⟩

/-! The widenings as arithmetic (30_encoding.md R72). -/

/-- Sign extension keeps the signed value. -/
theorem toInt_sext32 (imm : Half) : (sext32 imm).toInt = imm.toInt :=
  BitVec.toInt_signExtend_of_le (by decide)

/-- The wrapped sum is the sum of the signed values, modulo the size of the word. -/
theorem add_sext32_eq_ofInt (a : Word) (imm : Half) : a + sext32 imm = BitVec.ofInt 32 (a.toInt + imm.toInt) := by
  rw [← toInt_sext32, BitVec.ofInt_add, BitVec.ofInt_toInt, BitVec.ofInt_toInt]

/-- The compare with a sign-extended immediate is one of the signed values. -/
theorem setIfLess_sext32 (a : Word) (imm : Half) :
    setIfLess a (sext32 imm) = if a.toInt < imm.toInt then 1 else 0 := by
  rw [setIfLess, toInt_sext32]

/-- Zero extension keeps the unsigned value. -/
theorem zext32_eq_ofNat (imm : Half) : zext32 imm = BitVec.ofNat 32 imm.toNat :=
  (BitVec.ofNat_toNat 32 imm).symm

/-- The immediate in the upper half is its product with 2^16. -/
theorem upper_eq_ofNat (imm : Half) : upper imm = BitVec.ofNat 32 (imm.toNat * 2 ^ 16) := by
  apply BitVec.eq_of_toNat_eq
  have hlt : imm.toNat * 2 ^ 16 < 2 ^ 32 := Nat.mul_lt_mul_of_pos_right imm.isLt (by decide)
  rw [upper, toNat_append_eq_add, BitVec.toNat_ofNat, Nat.mod_eq_of_lt hlt, Nat.mul_comm]
  exact Nat.add_zero _

/-! The statements. -/

/-- Settles O36: the three are of class COMPUTE, PASS and WRITE_ALU; sum and compare are those of the signed values. -/
theorem immediateArithmeticWritesRt : Obligations.ImmediateArithmeticWritesRt := by
  intro rs rt imm
  refine ⟨
    ⟨decode_packI 0x08 rs rt imm, writesResult_of_byStage rfl fun s => ?addi⟩,
    ⟨decode_packI 0x09 rs rt imm, writesResult_of_byStage rfl fun s => ?addiu⟩,
    ⟨decode_packI 0x0A rs rt imm, writesResult_of_byStage rfl fun s => ?slti⟩⟩
  case addi | addiu => rw [← add_sext32_eq_ofInt]; rfl
  case slti => rw [← setIfLess_sext32]; rfl

/-- Settles O37: the three are of class COMPUTE, PASS and WRITE_ALU, with the zero-extended immediate. -/
theorem immediateLogicWritesRt : Obligations.ImmediateLogicWritesRt := by
  intro rs rt imm
  rw [← zext32_eq_ofNat]
  exact ⟨
    ⟨decode_packI 0x0C rs rt imm, writesResult_of_byStage rfl fun _ => rfl⟩,
    ⟨decode_packI 0x0D rs rt imm, writesResult_of_byStage rfl fun _ => rfl⟩,
    ⟨decode_packI 0x0E rs rt imm, writesResult_of_byStage rfl fun _ => rfl⟩⟩

/-- Settles O38: LUI is of class COMPUTE, PASS and UNREC. -/
theorem loadUpperIsNotWrittenBack : Obligations.LoadUpperIsNotWrittenBack := by
  intro rs rt imm
  rw [← upper_eq_ofNat]
  exact ⟨decode_packI 0x0F rs rt imm, computes_of_exCompute rfl fun _ => byStage_ex,
    passesMem_of_memPass fun _ => byStage_mem, reportedByWb_of_wbUnrec fun _ => byStage_wb⟩

end Sys2Proof.Machine
end

section
/-! PROOFS. The family 45_load_store.md: what each class of MEM leaves in its latch and in memory, the two sign
extensions, the three stages of a load and of a store, and the statements. -/

namespace Sys2Proof.Machine

/-! The word a load reads (20_memory.md R42, R43). -/

/-- A read that answers in a region gives the word that stands there. -/
theorem eq_wordAt_of_read32 {p : Platform} {m : Memory} {a w : Word} {r : Region} (hr : p.regionOf a = some r)
    (h : read32 p m a = .ok w) : w = m.wordAt a.toNat := by
  have hin := (noOverrun_iff_of_region hr).mp ((read32_ok_iff p m a).mp ⟨w, h⟩)
  cases (read32_inside hr hin m).symm.trans h
  rfl

/-- A read outside every region gives 0. -/
theorem eq_zero_of_read32 {p : Platform} {m : Memory} {a w : Word} (hr : p.regionOf a = none)
    (h : read32 p m a = .ok w) : w = 0 := by
  cases (read32_unmapped hr m).symm.trans h
  rfl

/-! The sign extensions of LB and LH (45_load_store.md R165, R166). -/

/-- A negative value is extended by ones above its own bits. -/
theorem signExtend_eq_or {n : Nat} {b : BitVec n} (h : b.msb = true) :
    b.signExtend 32 = b.zeroExtend 32 ||| BitVec.allOnes 32 <<< n := by
  apply BitVec.eq_of_getLsbD_eq
  intro i hi
  rw [BitVec.getLsbD_signExtend, BitVec.getLsbD_or, BitVec.getLsbD_setWidth, BitVec.getLsbD_shiftLeft,
    BitVec.getLsbD_allOnes]
  by_cases hlow : i < n
  · simp [hi, hlow]
  · have hnone : b.getLsbD i = false := BitVec.getLsbD_of_ge b i (by omega)
    simp [hi, hlow, h, hnone, show i - n < 32 by omega]

/-- Sign extension by cases on the top bit. -/
theorem signExtend_eq_ite {n : Nat} (b : BitVec n) :
    b.signExtend 32 = if b.msb then b.zeroExtend 32 ||| BitVec.allOnes 32 <<< n else b.zeroExtend 32 := by
  split
  case isTrue hneg => exact signExtend_eq_or hneg
  case isFalse hnonneg => exact BitVec.signExtend_eq_setWidth_of_msb_false (Bool.eq_false_of_not_eq_true hnonneg)

/-- For a byte these ones are `0xFFFFFF00`. -/
theorem signExtend_eq_extendedByte (b : Byte) : b.signExtend 32 = extendedByte b := signExtend_eq_ite b

/-- For a half-word they are `0xFFFF0000`. -/
theorem signExtend_eq_extendedHalf (x : Half) : x.signExtend 32 = extendedHalf x := signExtend_eq_ite x

/-- LB loads the byte at the address. -/
theorem loadedByte_wordAt (m : Memory) (n : Nat) : loadedByte (m.wordAt n) = extendedByte (m.byteAt n) := by
  rw [← signExtend_eq_extendedByte]
  exact congrArg (BitVec.signExtend 32) (byteOf_wordAt m n (k := 0) (by decide))

/-- The low half of a word is its two low bytes. -/
theorem extractLow_wordOfBytes (b0 b1 b2 b3 : Byte) : (wordOfBytes b0 b1 b2 b3).extractLsb' 0 16 = b1 ++ b0 := by
  apply BitVec.eq_of_toNat_eq
  rw [toNat_lowField, toNat_wordOfBytes, toNat_append_eq_add]
  omega

/-- LH loads the half-word at the address, the lower address lower. -/
theorem loadedHalf_wordAt (m : Memory) (n : Nat) :
    loadedHalf (m.wordAt n) = extendedHalf (m.byteAt (n + 1) ++ m.byteAt n) := by
  rw [← signExtend_eq_extendedHalf]
  exact congrArg (BitVec.signExtend 32) (extractLow_wordOfBytes _ _ _ _)

/-! The words SB and SH write back (45_load_store.md R168, R169). -/

/-- SB's merge takes byte 0 from B. -/
theorem byteOf_mergeByte_low (w b : Word) {k : Nat} (h : k < 1) : byteOf (mergeByte w b) k = byteOf b k := by
  apply BitVec.eq_of_getLsbD_eq
  intro i hi
  simp only [byteOf, mergeByte, BitVec.getLsbD_extractLsb', BitVec.getLsbD_append]
  grind

/-- SH's merge takes bytes 0 and 1 from B. -/
theorem byteOf_mergeHalf_low (w b : Word) {k : Nat} (h : k < 2) : byteOf (mergeHalf w b) k = byteOf b k := by
  apply BitVec.eq_of_getLsbD_eq
  intro i hi
  simp only [byteOf, mergeHalf, BitVec.getLsbD_extractLsb', BitVec.getLsbD_append]
  grind

/-! What MEM leaves in its latch and in memory, by class (40_pipeline.md R99). -/

/-- LOADB and LOADH pass ALUOutput on, and LMD gets what is made of the word read, which outside every region is 0. -/
theorem memLmd_of_withRead {load : Word → Word} {s t : State}
    (h : s.withRead s.exMem.aluOutput (fun w => .next (memLmd (load w) s)) = .next t) :
    t.memWb.aluOutput = s.exMem.aluOutput ∧
    (∀ r, s.platform.regionOf s.exMem.aluOutput = some r →
      t.memWb.lmd = load (s.mem.wordAt s.exMem.aluOutput.toNat)) ∧
    (s.platform.regionOf s.exMem.aluOutput = none → t.memWb.lmd = load 0) := by
  obtain ⟨w, hw, h⟩ := withRead_next.mp h
  cases h
  exact ⟨rfl, fun _ hr => congrArg load (eq_wordAt_of_read32 hr hw), fun hr => congrArg load (eq_zero_of_read32 hr hw)⟩

/-- Only LOADB and LOADH change LMD (90_conflicts.md C7). -/
theorem memDo_keeps_lmd {c : MemClass} {s t : State} (h : memDo c s = .next t) (hb : c ≠ .loadb) (hh : c ≠ .loadh) :
    t.memWb.lmd = s.memWb.lmd := by
  cases c
  case loadb => exact absurd rfl hb
  case loadh => exact absurd rfl hh
  case pass | unrec => cases h; rfl
  case loadw => obtain ⟨w, -, h⟩ := withRead_next.mp h; cases h; rfl
  case storeb | storeh =>
    obtain ⟨w, -, h⟩ := withRead_next.mp h
    obtain ⟨m, -, rfl⟩ := memWrite_next.mp h
    rfl
  case storew => obtain ⟨m, -, rfl⟩ := memWrite_next.mp h; rfl

/-- Only UNREC reports. -/
theorem memDo_keeps_report {c : MemClass} {s t : State} (h : memDo c s = .next t) (hc : c ≠ .unrec) :
    t.reports.mem = s.reports.mem := by
  rw [memDo_report h, beq_false_of_ne hc, Bool.or_false]

/-- A class that stores nothing leaves memory as it was. -/
theorem memDo_keeps_mem {c : MemClass} {s t : State} (h : memDo c s = .next t) (hc : c.storedBytes = 0) :
    t.mem = s.mem := by
  obtain ⟨-, -, -, -, hmem⟩ := memDo_next h
  exact hmem.resolve_right fun ⟨hstore, _⟩ => by rcases hstore with rfl | rfl | rfl <;> cases hc

/-- A store outside every region leaves memory as it was (20_memory.md R42). -/
theorem memDo_keeps_mem_of_unmapped {c : MemClass} {s t : State} (h : memDo c s = .next t)
    (hr : s.platform.regionOf s.exMem.aluOutput = none) : t.mem = s.mem := by
  obtain ⟨-, -, -, -, hmem⟩ := memDo_next h
  refine hmem.elim id fun ⟨_, v, hv⟩ => ?_
  exact Except.ok.inj (hv.symm.trans (write32_unmapped hr s.mem v))

/-- The word a store writes: B, or the word read with its low bytes replaced by B's. -/
theorem memDo_store {c : MemClass} {s t : State} (h : memDo c s = .next t) (hc : c.storedBytes ≠ 0) :
    t.memWb.aluOutput = s.exMem.aluOutput ∧
    ∃ v, write32 s.platform s.mem s.exMem.aluOutput v = .ok t.mem ∧
      ∀ k, k < c.storedBytes → byteOf v k = byteOf s.exMem.b k := by
  cases c
  case pass | loadb | loadh | loadw | unrec => exact absurd rfl hc
  case storeb =>
    obtain ⟨w, -, h⟩ := withRead_next.mp h
    obtain ⟨m, hm, rfl⟩ := memWrite_next.mp h
    exact ⟨rfl, _, hm, fun k hk => byteOf_mergeByte_low w s.exMem.b hk⟩
  case storeh =>
    obtain ⟨w, -, h⟩ := withRead_next.mp h
    obtain ⟨m, hm, rfl⟩ := memWrite_next.mp h
    exact ⟨rfl, _, hm, fun k hk => byteOf_mergeHalf_low w s.exMem.b hk⟩
  case storew =>
    obtain ⟨m, hm, rfl⟩ := memWrite_next.mp h
    exact ⟨rfl, _, hm, fun _ _ => rfl⟩

/-- The bytes a store into a region puts are the low bytes of B. -/
theorem memDo_storedByte {c : MemClass} {s t : State} {r : Region} {k : Nat} (h : memDo c s = .next t)
    (hwf : s.mem.wf) (hr : s.platform.regionOf s.exMem.aluOutput = some r) (hk : k < c.storedBytes) :
    t.mem.byteAt (s.exMem.aluOutput.toNat + k) = byteOf s.exMem.b k := by
  obtain ⟨-, v, hv, hbytes⟩ := memDo_store h (by omega)
  have hin := (noOverrun_iff_of_region hr).mp ((write32_ok_iff _ _ _ _).mp ⟨_, hv⟩)
  have hmem : t.mem = s.mem.putWord s.exMem.aluOutput.toNat v :=
    Except.ok.inj (hv.symm.trans (write32_inside hr hin s.mem v))
  have hfour : k < 4 := hk.trans_le (by cases c <;> decide)
  rw [hmem, Memory.byteAt_putWord_inside hwf _ _ hfour, hbytes k hk]

/-! What a load or a store does in its three stages, from the class `exec` has in each. -/

/-- Class COMPUTE with the effective address (45_load_store.md; 92_eei_decisions.md D21). -/
theorem computes_effectiveAddress {i : Instr} {rt : Five} {imm : Half} (hd : resultRegister i = some rt)
    (h : ∀ s, s.stage = .ex → exec i s = exCompute (effectiveAddress s.idEx.a imm) s) :
    Computes i rt (fun s => BitVec.ofInt 32 (s.idEx.a.toInt + imm.toInt)) :=
  computes_of_exCompute hd fun s hs => by rw [← add_sext32_eq_ofInt]; exact h s hs

/-- A class of MEM that reads and does not store; what its latch holds then is for the class to say. -/
theorem loadsInMem_of_memDo {i : Instr} {c : MemClass} {post : State → MemWb → Prop} (hc : c.accesses = true)
    (hz : c.storedBytes = 0) (h : ∀ s, s.stage = .mem → exec i s = memDo c s)
    (hpost : ∀ s t, memDo c s = .next t → post s t.memWb) : LoadsInMem i post := by
  intro s hs
  rw [h s hs]
  refine ⟨fun hno => ?_, fun hover => (memDo_nextIff c s).2 fun hno => hover (hno hc)⟩
  obtain ⟨t, ht⟩ := (memDo_nextIff c s).1 fun _ => hno
  obtain ⟨hp, hk, -⟩ := memDo_next ht
  exact ⟨t, ht, hpost s t ht, fun n => congrArg (·.byteAt n) (memDo_keeps_mem ht hz), hp, hk,
    memDo_keeps_report ht (by rintro rfl; cases hc)⟩

/-- A class that stores makes an access. -/
theorem accesses_of_storedBytes {c : MemClass} (h : c.storedBytes ≠ 0) : c.accesses = true := by
  cases c
  case pass | loadb | loadh | loadw | unrec => exact absurd rfl h
  case storeb | storeh | storew => rfl

/-- A class of MEM that stores (20_memory.md R42, R44, R54). -/
theorem storesInMem_of_memDo {i : Instr} {c : MemClass} (hc : c.storedBytes ≠ 0)
    (h : ∀ s, s.stage = .mem → exec i s = memDo c s) : StoresInMem i c.storedBytes := by
  intro s hs
  rw [h s hs]
  have haccess : c.accesses = true := accesses_of_storedBytes hc
  refine ⟨fun hwf hno => ?_, fun hover => (memDo_nextIff c s).2 fun hno => hover (hno haccess)⟩
  obtain ⟨t, ht⟩ := (memDo_nextIff c s).1 fun _ => hno
  obtain ⟨hp, hk, -⟩ := memDo_next ht
  refine ⟨t, ht, fun r hr => ⟨fun k hlt => ?_, fun a ha => memDo_frame hwf ht ha⟩, fun hr a => ?_,
    (memDo_store ht hc).1, ?_, hp, hk, ?_⟩
  · exact (memDo_storedByte ht hwf hr hlt).trans (byteOf_eq_digit _ k)
  · exact congrArg (·.byteAt a) (memDo_keeps_mem_of_unmapped ht hr)
  · exact memDo_keeps_lmd ht (by rintro rfl; exact hc rfl) (by rintro rfl; exact hc rfl)
  · exact memDo_keeps_report ht (by rintro rfl; exact hc rfl)

/-- Class WRITE_LMD in WB (40_pipeline.md R103). -/
theorem writesBack_of_wbWriteLmd {i : Instr} (h : ∀ s, s.stage = .wb → exec i s = wbWriteLmd s) :
    WritesBack i (fun s => s.memWb.lmd) := by
  intro s hs
  obtain ⟨t, ht, hk, -, -, -, hregs⟩ := wbDo_next .writeLmd s
  exact ⟨t, (h s hs).trans ht, (hregs _).trans (if_pos rfl), fun r hr => (hregs r).trans (if_neg hr), hk,
    (wbDo_report ht).trans (Bool.or_false _)⟩

/-- The stages of a load: COMPUTE, a class of MEM that reads, WRITE_LMD. -/
theorem loads_of_byStage {i : Instr} {rt : Five} {imm : Half} {c : MemClass} {post : State → MemWb → Prop}
    (hd : resultRegister i = some rt) (hc : c.accesses = true) (hz : c.storedBytes = 0)
    (h : ∀ s, exec i s = byStage (exCompute (effectiveAddress s.idEx.a imm)) (memDo c) wbWriteLmd s)
    (hpost : ∀ s t, memDo c s = .next t → post s t.memWb) :
    Computes i rt (fun s => BitVec.ofInt 32 (s.idEx.a.toInt + imm.toInt)) ∧ LoadsInMem i post ∧
      WritesBack i (fun s => s.memWb.lmd) :=
  ⟨computes_effectiveAddress hd fun s hs => (h s).trans (byStage_ex hs),
    loadsInMem_of_memDo hc hz (fun s hs => (h s).trans (byStage_mem hs)) hpost,
    writesBack_of_wbWriteLmd fun s hs => (h s).trans (byStage_wb hs)⟩

/-- The stages of a store: COMPUTE, a class of MEM that stores, NONE. -/
theorem stores_of_byStage {i : Instr} {rt : Five} {imm : Half} {c : MemClass} (hd : resultRegister i = some rt)
    (hc : c.storedBytes ≠ 0)
    (h : ∀ s, exec i s = byStage (exCompute (effectiveAddress s.idEx.a imm)) (memDo c) wbNone s) :
    Computes i rt (fun s => BitVec.ofInt 32 (s.idEx.a.toInt + imm.toInt)) ∧ StoresInMem i c.storedBytes ∧
      WritesNoRegister i :=
  ⟨computes_effectiveAddress hd fun s hs => (h s).trans (byStage_ex hs),
    storesInMem_of_memDo hc fun s hs => (h s).trans (byStage_mem hs),
    writesNoRegister_of_wbNone fun s hs => (h s).trans (byStage_wb hs)⟩

/-! LMD over a whole step (90_conflicts.md C7). -/

/-- A step changes LMD by LOADB and LOADH in MEM only: WB and EX keep `MEM_WB`, ID and IF too. -/
theorem step_keeps_lmd {s t : State} (h : step s = .next t) (hb : memClass s.exMem.opcode ≠ .loadb)
    (hh : memClass s.exMem.opcode ≠ .loadh) : t.memWb.lmd = s.memWb.lmd := by
  cases hrun : s.run with
  | false => cases (step_halted hrun).symm.trans h; rfl
  | true =>
    obtain ⟨s₁, s₂, s₃, w, f, hwb, hmem, hex, -, -, rfl⟩ := cycle_next ((step_running hrun).symm.trans h)
    obtain ⟨kw, -⟩ := wbEngine_keeps hwb
    obtain ⟨ke, -⟩ := exEngine_keeps hex
    rw [memEngine_eq, kw.exMem] at hmem
    calc
      s₃.memWb.lmd = s₂.memWb.lmd := congrArg MemWb.lmd ke.memWb
      _ = s₁.memWb.lmd := memDo_keeps_lmd (s := s₁.atStage .mem) hmem hb hh
      _ = s.memWb.lmd := congrArg MemWb.lmd kw.memWb

/-! The statements. -/

/-- Settles O39: both are of class COMPUTE and WRITE_LMD, and LMD gets the extension of what a read of the word at the
address answers. -/
theorem loadByteAndHalfSignExtend : Obligations.LoadByteAndHalfSignExtend := by
  intro rs rt imm
  refine ⟨
    ⟨decode_packI 0x20 rs rt imm, loads_of_byStage (c := .loadb) rfl rfl rfl (fun _ => rfl) fun s t h => ?lb⟩,
    ⟨decode_packI 0x21 rs rt imm, loads_of_byStage (c := .loadh) rfl rfl rfl (fun _ => rfl) fun s t h => ?lh⟩⟩
  case lb =>
    obtain ⟨halu, hmapped, hunmapped⟩ := memLmd_of_withRead h
    exact ⟨halu, fun r hr => (hmapped r hr).trans (loadedByte_wordAt _ _), hunmapped⟩
  case lh =>
    obtain ⟨halu, hmapped, hunmapped⟩ := memLmd_of_withRead h
    exact ⟨halu, fun r hr => (hmapped r hr).trans (loadedHalf_wordAt _ _), hunmapped⟩

/-- Settles O40: the word read goes to ALUOutput, and `step_keeps_lmd` for LMD. -/
theorem loadWordWritesTheStaleLmd : Obligations.LoadWordWritesTheStaleLmd := by
  refine ⟨fun rs rt imm => ⟨decode_packI 0x23 rs rt imm,
    loads_of_byStage (c := .loadw) rfl rfl rfl (fun _ => rfl) fun s t h => ?_⟩,
    fun _ _ => step_keeps_lmd, fun _ => rfl⟩
  obtain ⟨w, hw, h⟩ := withRead_next.mp h
  cases h
  exact ⟨hw, rfl⟩

/-- Settles O41: both are of class COMPUTE and NONE, and store one byte and two. -/
theorem storeByteAndHalfMerge : Obligations.StoreByteAndHalfMerge := fun rs rt imm =>
  ⟨⟨decode_packI 0x28 rs rt imm, stores_of_byStage (c := .storeb) rfl (by decide) fun _ => rfl⟩,
    ⟨decode_packI 0x29 rs rt imm, stores_of_byStage (c := .storeh) rfl (by decide) fun _ => rfl⟩⟩

/-- Settles O42: SW is of class COMPUTE and NONE, and stores four bytes. -/
theorem storeWordWritesFourBytes : Obligations.StoreWordWritesFourBytes := fun rs rt imm =>
  ⟨decode_packI 0x2B rs rt imm, stores_of_byStage (c := .storew) rfl (by decide) fun _ => rfl⟩

end Sys2Proof.Machine
end

section
/-! PROOFS. The family 46_control_inert.md: the words of the J-format, class INERT in EX and class UNREC in MEM, the three
stages of a branch or jump and of JR and JALR, and the statements. -/

namespace Sys2Proof.Machine

/-! The words of the J-format (30_encoding.md R70, R74). -/

/-- A packed word is decoded from the two fields it was packed from; the others overlap the target. -/
theorem decode_packJ (op : Six) (target : BitVec 26) :
    decode (packJ op target) = decodeFields { fieldsOf (packJ op target) with opcode := op, target := target } := by
  obtain ⟨ho, htarget⟩ := fieldsOf_packJ op target
  rw [decode]
  congr 1
  rw [Fields.mk.injEq]
  exact ⟨ho, rfl, rfl, rfl, rfl, rfl, rfl, htarget⟩

/-! What an instruction does in EX and in MEM, from the class `exec` has there. -/

/-- Class INERT in EX (40_pipeline.md R95, R96): a case of the frame of class HILO, with HI and LO kept. -/
theorem inertInEx_of_exInert {i : Instr} (h : ∀ s, s.stage = .ex → exec i s = exInert s) : InertInEx i := by
  intro s hs
  have hshape : ExShape .hilo s (exInert s) := .inr (.inr (.inr (.inr rfl)))
  obtain ⟨t, ht, halu, hpassed, hkeeps, hrun, hreport⟩ := next_of_hilo_shape hshape
  have hhilo : KeepsHiLo s t := by cases ht; exact ⟨rfl, rfl⟩
  exact ⟨t, (h s hs).trans ht, halu, hpassed, hkeeps, hhilo, hrun, hreport⟩

/-- Class UNREC in MEM (40_pipeline.md R99). -/
theorem reportedByMem_of_memUnrec {i : Instr} (h : ∀ s, s.stage = .mem → exec i s = memUnrec s) : ReportedByMem i :=
  fun s hs => ⟨_, h s hs, rfl, rfl, fun _ => rfl, by constructor <;> rfl, by constructor <;> rfl, rfl⟩

/-! What an instruction of this family does in its three stages, from the class `exec` has in each. -/

/-- The stages of a branch, of J and of JAL: INERT, UNREC and UNREC. -/
theorem inert_reported_of_byStage {i : Instr} (h : ∀ s, exec i s = byStage exInert memUnrec wbUnrec s) :
    InertInEx i ∧ ReportedByMem i ∧ ReportedByWb i :=
  ⟨inertInEx_of_exInert fun s hs => (h s).trans (byStage_ex hs),
    reportedByMem_of_memUnrec fun s hs => (h s).trans (byStage_mem hs),
    reportedByWb_of_wbUnrec fun s hs => (h s).trans (byStage_wb hs)⟩

/-- The stages of JR and JALR: INERT, PASS and NONE. -/
theorem inert_passed_of_byStage {i : Instr} (h : ∀ s, exec i s = byStage exInert memPass wbNone s) :
    InertInEx i ∧ PassesMem i ∧ WritesNoRegister i :=
  ⟨inertInEx_of_exInert fun s hs => (h s).trans (byStage_ex hs),
    passesMem_of_memPass fun s hs => (h s).trans (byStage_mem hs),
    writesNoRegister_of_wbNone fun s hs => (h s).trans (byStage_wb hs)⟩

/-! The statements. -/

/-- Settles O43: each of the eight is of class INERT, UNREC and UNREC, with nothing asked of A and B. -/
theorem branchesAndJumpsAreInert : Obligations.BranchesAndJumpsAreInert := fun rs rt imm target => ⟨
  ⟨decode_packJ 0x02 target, inert_reported_of_byStage fun _ => rfl⟩,
  ⟨decode_packJ 0x03 target, inert_reported_of_byStage fun _ => rfl⟩,
  ⟨decode_packI 0x04 rs rt imm, inert_reported_of_byStage fun _ => rfl⟩,
  ⟨decode_packI 0x05 rs rt imm, inert_reported_of_byStage fun _ => rfl⟩,
  ⟨decode_packI 0x06 rs rt imm, inert_reported_of_byStage fun _ => rfl⟩,
  ⟨decode_packI 0x07 rs rt imm, inert_reported_of_byStage fun _ => rfl⟩,
  ⟨decode_packI 0x01 rs 0x00 imm, inert_reported_of_byStage fun _ => rfl⟩,
  ⟨decode_packI 0x01 rs 0x01 imm, inert_reported_of_byStage fun _ => rfl⟩⟩

/-- Settles O44: both are of class INERT, PASS and NONE, so neither links nor reports. -/
theorem jumpRegistersAreInert : Obligations.JumpRegistersAreInert := fun rs rt rd sa => ⟨
  ⟨decode_packR_special rs rt rd sa 0x08 0 0, inert_passed_of_byStage fun _ => rfl⟩,
  ⟨decode_packR_special rs rt rd sa 0x09 0 0, inert_passed_of_byStage fun _ => rfl⟩⟩

end Sys2Proof.Machine
end

section
/-! PROOFS. The family 47_system.md: the parts of SYSCALL's code, the engines on a word that is no instruction, each
instruction's classes of MEM and WB by its row of the opcode table, what `exec` does with other reports beforehand, and
the statements. -/

namespace Sys2Proof.Machine

/-! SYSCALL (47_system.md R190). -/

/-- A code field is its four parts put together again. -/
theorem code_parts_append (code : BitVec 20) :
    code.extractLsb' 15 5 ++ code.extractLsb' 10 5 ++ code.extractLsb' 5 5 ++ code.extractLsb' 0 5 = code := by
  rw [BitVec.extractLsb'_append_extractLsb'_eq_extractLsb' (show 15 = 10 + 5 from rfl),
    BitVec.extractLsb'_append_extractLsb'_eq_extractLsb' (show 10 = 5 + 5 from rfl),
    BitVec.extractLsb'_append_extractLsb'_eq_extractLsb' (show 5 = 0 + 5 from rfl), BitVec.extractLsb'_eq_self]

/-- A SYSCALL word gives its code field back. -/
theorem decode_syscall (code : BitVec 20) : decode (0x00#6 ++ code ++ 0x0C#6) = .ok (.syscall code) := by
  rw [← packR_code]
  refine (decode_packR_special _ _ _ _ 0x0C 0 0).trans ?_
  exact congrArg (fun c => Except.ok (Instr.syscall c)) (code_parts_append code)

/-! The engines on a word that is no instruction (47_system.md R191). -/

/-- EX has class UNREC (40_pipeline.md R97). -/
theorem exClass_of_error {l : IdEx} {q : Reject} (h : l.instr = .error q) : exClass l.opcode l.funct l.rt = .unrec :=
  (decodeFields_error_iff l.fields).mp ⟨q, h⟩

/-- MEM has class PASS under opcode 0, class UNREC under every other opcode. -/
theorem memEngine_of_error {s : State} {q : Reject} (h : s.exMem.instr = .error q) :
    memEngine s = memDo (if s.exMem.opcode = 0 then .pass else .unrec) (s.atStage .mem) := by
  rw [memEngine, h]
  show (if s.exMem.opcode = 0 then _ else _) = _
  split <;> rfl

/-- WB has class NONE under opcode 0, class UNREC under every other opcode. -/
theorem wbEngine_of_error {s : State} {q : Reject} (h : s.memWb.instr = .error q) :
    wbEngine s = wbDo (if s.memWb.opcode = 0 then .none else .unrec) (s.atStage .wb) := by
  rw [wbEngine, h]
  show (if s.memWb.opcode = 0 then _ else _) = _
  split <;> rfl

/-! What each instruction does in MEM and in WB, from its row of the opcode table (40_pipeline.md R101, R104). -/

/-- In MEM and in WB an instruction does what the classes of its row's opcode and funct do; the row is written out
first, for a term that still holds the operands is not evaluated. -/
theorem exec_eq_byStage (i : Instr) (s : State) :
    ∃ ex, exec i s = byStage ex (memDo (memClass (fieldsOf i.row.bits).opcode))
      (wbDo (wbClass (fieldsOf i.row.bits).opcode (fieldsOf i.row.bits).funct)) s := by
  cases i <;> dsimp only [Instr.row] <;> exact ⟨_, rfl⟩

theorem exec_mem (i : Instr) {s : State} (hs : s.stage = .mem) :
    exec i s = memDo (memClass (fieldsOf i.row.bits).opcode) s := by
  obtain ⟨ex, h⟩ := exec_eq_byStage i s
  exact h.trans (byStage_mem hs)

theorem exec_wb (i : Instr) {s : State} (hs : s.stage = .wb) :
    exec i s = wbDo (wbClass (fieldsOf i.row.bits).opcode (fieldsOf i.row.bits).funct) s := by
  obtain ⟨ex, h⟩ := exec_eq_byStage i s
  exact h.trans (byStage_wb hs)

/-- The rows of class UNREC in MEM are those of the eight branches and jumps. -/
theorem memClass_row_beq_unrec (i : Instr) :
    (memClass (fieldsOf i.row.bits).opcode == .unrec) = (i.row.bits ∈ branchRows : Bool) := by
  cases i <;> dsimp only [Instr.row] <;> rfl

/-- The rows of class UNREC in WB are these and LUI's. -/
theorem wbClass_row_beq_unrec (i : Instr) :
    (wbClass (fieldsOf i.row.bits).opcode (fieldsOf i.row.bits).funct == .unrec) =
      (i.row.bits ∈ branchRows || i.row.bits == 0x3C000000) := by
  cases i <;> dsimp only [Instr.row] <;> rfl

/-! What an instruction does with other reports beforehand (60_exceptions.md R203). -/

/-- The state with other reports. -/
def State.withReports (q : Reports) (s : State) : State := { s with reports := q }

/-- A signed division decides its case on the operands alone. -/
theorem divide_withReports (q : Reports) (s : State) :
    divide (s.withReports q) = mapNext (State.withReports q) (divide s) := by
  rw [divide.eq_1 s, apply_ite (mapNext _), apply_ite (mapNext _)]
  rfl

/-- So does an unsigned one. -/
theorem divideUnsigned_withReports (q : Reports) (s : State) :
    divideUnsigned (s.withReports q) = mapNext (State.withReports q) (divideUnsigned s) := by
  rw [divideUnsigned.eq_1 s, apply_ite (mapNext _)]
  rfl

/-- No instruction looks at the reports in EX, and none makes one. -/
theorem exec_ex_withReports (i : Instr) (q : Reports) (s : State) :
    exec i ((s.atStage .ex).withReports q) = mapNext (State.withReports q) (exec i (s.atStage .ex)) := by
  cases i with
  | div => exact divide_withReports q (s.atStage .ex)
  | divu => exact divideUnsigned_withReports q (s.atStage .ex)
  | syscall => exact (exHalt_eq _).trans (congrArg (mapNext (State.withReports q)) (exHalt_eq (s.atStage .ex)).symm)
  | _ => rfl

/-- A store looks at the platform and memory only. -/
theorem memWrite_withReports (q : Reports) (s : State) (a v : Word) :
    (s.withReports q).memWrite a v = mapNext (State.withReports q) (s.memWrite a v) := by
  simp only [State.memWrite, State.withReports]
  cases write32 s.platform s.mem a v <;> rfl

/-- MEM does not look at the reports. -/
theorem memDo_withReports (c : MemClass) (q : Reports) (s : State) :
    ∃ p, memDo c (s.withReports q) = mapNext (State.withReports p) (memDo c s) := by
  have hwrite (v : Word) := memWrite_withReports q (memAlu s.exMem.aluOutput s) s.exMem.aluOutput v
  cases c with
  | pass => exact ⟨q, rfl⟩
  | loadb | loadh | loadw => exact ⟨q, withRead_eq_mapNext _ _ _ fun _ => rfl⟩
  | storeb | storeh => exact ⟨q, withRead_eq_mapNext _ _ _ fun _ => hwrite _⟩
  | storew => exact ⟨q, hwrite _⟩
  | unrec => exact ⟨{ q with mem := true }, rfl⟩

/-- WB does not look at the reports. -/
theorem wbDo_withReports (c : WbClass) (q : Reports) (s : State) :
    ∃ p, wbDo c (s.withReports q) = mapNext (State.withReports p) (wbDo c s) := by
  cases c with
  | writeAlu | writeLmd | none => exact ⟨q, rfl⟩
  | unrec => exact ⟨{ q with wb := true }, rfl⟩

/-- A state is at its own stage. -/
theorem atStage_self {s : State} {st : Stage} (hs : s.stage = st) : s.atStage st = s := by
  subst hs
  rfl

/-- With other reports beforehand an instruction does the same, in every stage: only the reports may end different. -/
theorem exec_withReports (i : Instr) (q : Reports) (s : State) :
    ∃ p, exec i (s.withReports q) = mapNext (State.withReports p) (exec i s) := by
  cases hs : s.stage with
  | ex =>
    rw [← atStage_self hs]
    exact ⟨q, exec_ex_withReports i q s⟩
  | mem =>
    rw [exec_mem i hs, exec_mem i (s := s.withReports q) hs]
    exact memDo_withReports _ q s
  | wb =>
    rw [exec_wb i hs, exec_wb i (s := s.withReports q) hs]
    exact wbDo_withReports _ q s

/-- EX of an instruction makes no report: the reports it is given are the ones it ends with. -/
theorem exec_ex_reports {i : Instr} {s t : State} (hs : s.stage = .ex) (h : exec i s = .next t) :
    t.reports = s.reports := by
  have hsame := exec_ex_withReports i s.reports s
  rw [atStage_self hs, h] at hsame
  have hnext : exec i s = .next (t.withReports s.reports) := hsame
  have hreports : t = t.withReports s.reports := Host.Outcome.next.inj (h.symm.trans hnext)
  rw [hreports]
  rfl

/-! The statements. -/

/-- Settles O45: EX has class HALT, whose answer is `exHalt_eq`; MEM and WB have PASS and NONE. -/
theorem syscallHaltsOnTen : Obligations.SyscallHaltsOnTen := by
  intro code
  refine ⟨decode_syscall code, fun s hs => ?_, passesMem_of_memPass fun _ => byStage_mem,
    writesNoRegister_of_wbNone fun _ => byStage_wb⟩
  have hexec : exec (.syscall code) s = _ := (byStage_ex hs).trans (exHalt_eq s)
  exact ⟨_, hexec, fun h => if_pos h, fun h => if_neg h, rfl, by constructor <;> rfl, by constructor <;> (intros; rfl),
    ⟨rfl, rfl⟩, rfl⟩

/-- Settles O26: EX by the lemmas of its class UNREC; MEM and WB by the class the opcode gives them. -/
theorem unrecognisedWordsDoNothing : Obligations.UnrecognisedWordsDoNothing := by
  refine ⟨fun s q h => ?_, fun s q h => ?_, fun s q h => ?_⟩
  · have hclass := exClass_of_error h
    obtain ⟨t, ht, hpassed, hkeeps, -⟩ := exEngine_next s
    obtain ⟨halu, hreport⟩ := exEngine_aluOutput_report ht
    have hhilo := exEngine_keepsHiLo ht
    have hrun := exEngine_run ht
    rw [hclass] at halu hreport hhilo hrun
    exact ⟨t, ht, hreport.trans (Bool.or_true _), halu nofun, hpassed, hkeeps, hhilo nofun,
      hrun.trans (if_neg fun hh => nomatch hh.1)⟩
  · rw [memEngine_of_error h]
    split
    case isTrue hz =>
      exact ⟨_, rfl, fun _ => ⟨rfl, rfl⟩, fun hnz => absurd hz hnz, rfl, fun _ => rfl, by constructor <;> rfl,
        by constructor <;> rfl⟩
    case isFalse hnz =>
      exact ⟨_, rfl, fun hz => absurd hz hnz, fun _ => ⟨rfl, rfl⟩, rfl, fun _ => rfl, by constructor <;> rfl,
        by constructor <;> rfl⟩
  · rw [wbEngine_of_error h]
    split
    case isTrue hz =>
      obtain ⟨t, ht, hkeeps, -, -, -, hregs⟩ := wbDo_next .none (s.atStage .wb)
      exact ⟨t, ht, fun _ => (wbDo_report ht).trans (Bool.or_false _), fun hnz => absurd hz hnz, hregs, { hkeeps with }⟩
    case isFalse hnz =>
      obtain ⟨t, ht, hkeeps, -, -, -, hregs⟩ := wbDo_next .unrec (s.atStage .wb)
      exact ⟨t, ht, fun hz => absurd hz hnz, fun _ => (wbDo_report ht).trans (Bool.or_true _), hregs, { hkeeps with }⟩

/-- Settles O27: MEM and WB report by the class of the instruction's row, EX never. -/
theorem partlyRecognisedInstructions : Obligations.PartlyRecognisedInstructions := by
  intro i s t h
  refine ⟨fun hs => exec_ex_reports hs h, fun hs => ?_, fun hs => ?_, fun q => ?_⟩
  · have hmem := (exec_mem i hs).symm.trans h
    obtain ⟨-, hkeeps, -⟩ := memDo_next hmem
    exact ⟨hkeeps.reportEx, hkeeps.reportWb, (memDo_report hmem).trans (by rw [memClass_row_beq_unrec])⟩
  · have hwb := (exec_wb i hs).symm.trans h
    obtain ⟨_, hwb', hkeeps, -⟩ := wbDo_next _ s
    cases hwb.symm.trans hwb'
    exact ⟨hkeeps.reportEx, hkeeps.reportMem,
      (wbDo_report hwb).trans (by rw [wbClass_row_beq_unrec, Bool.or_assoc])⟩
  · obtain ⟨p, hp⟩ := exec_withReports i q s
    exact ⟨t.withReports p, hp.trans (congrArg (mapNext _) h), rfl⟩

end Sys2Proof.Machine
end

section
/-! PROOFS. Decoding and encoding (30_encoding.md): both directions of the round trip, the bits that select a row of the
opcode table, and the statements. -/

namespace Sys2Proof.Machine

/-! The round trip (30_encoding.md R70, R71, R74). -/

/-- The word of an instruction decodes to it, by the format of its row. -/
theorem decode_encode (i : Instr) : decode (encode i) = .ok i := by
  cases i with
  | syscall code => exact decode_syscall code
  | j target | jal target => exact decode_packJ _ target
  | bltz rs imm | bgez rs imm => exact decode_packI _ rs _ imm
  | beq rs rt imm | bne rs rt imm | blez rs rt imm | bgtz rs rt imm | addi rs rt imm | addiu rs rt imm
  | slti rs rt imm | andi rs rt imm | ori rs rt imm | xori rs rt imm | lui rs rt imm
  | lb rs rt imm | lh rs rt imm | lw rs rt imm | sb rs rt imm | sh rs rt imm | sw rs rt imm =>
    exact decode_packI _ rs rt imm
  | _ => exact decode_packR_special _ _ _ _ _ 0 0

/-- Its bytes in address order decode to it, and the bytes behind them are left. -/
theorem decodeBytes_encodeBytes (i : Instr) (rest : List Byte) :
    decodeBytes (encodeBytes i ++ rest) = .ok (i, rest) := by
  simp only [encodeBytes, List.cons_append, List.nil_append, decodeBytes, wordOfBytes_byteOf, decode_encode]

/-- The four middle fields of an R-format word may be put together first, as the code of SYSCALL is. -/
theorem append_code_eq_packR (op fn : Six) (rs rt rd sa : Five) :
    op ++ (rs ++ rt ++ rd ++ sa) ++ fn = packR op rs rt rd sa fn := by
  apply BitVec.eq_of_toNat_eq
  simp only [packR, toNat_append_eq_add]
  omega

/-- A word of opcode 0 that decodes is encoded from all its R-format fields. -/
theorem encode_of_decodeSpecial {f : Fields} {i : Instr} (h : decodeSpecial f = .ok i) :
    encode i = packR 0x00 f.rs f.rt f.rd f.shamt f.funct := by
  unfold decodeSpecial at h
  split at h <;> rename_i hf
  case h_24 => cases h
  all_goals cases h; rw [six_eq_ofNat hf]
  case h_6 => exact append_code_eq_packR _ _ _ _ _ _
  all_goals rfl

/-- A word of opcode 1 that decodes is encoded from its I-format fields. -/
theorem encode_of_decodeRegimm {f : Fields} {i : Instr} (h : decodeRegimm f = .ok i) :
    encode i = packI 0x01 f.rs f.rt f.imm := by
  unfold decodeRegimm at h
  split at h <;> rename_i hrt
  case h_3 => cases h
  all_goals cases h; rw [five_eq_ofNat hrt]; rfl

/-- A word that decodes is the word of its instruction: it is put together again from its fields, in the format of its
opcode. -/
theorem encode_of_decode {w : Word} {i : Instr} (h : decode w = .ok i) : encode i = w := by
  have hR := packR_fieldsOf w
  have hI := packI_fieldsOf w
  have hJ := packJ_fieldsOf w
  unfold decode decodeFields at h
  split at h <;> rename_i ho
  case h_22 => cases h
  all_goals rw [six_eq_ofNat ho] at hR hI hJ
  case h_1 => exact (encode_of_decodeSpecial h).trans hR
  case h_2 => exact (encode_of_decodeRegimm h).trans hI
  case h_3 | h_4 => cases h; exact hJ
  all_goals cases h; exact hI

/-! The rows of the opcode table (30_encoding.md section 3). -/

/-- The word of an instruction agrees with its row on the bits the row fixes, by the format of the row. -/
theorem encode_and_mask (i : Instr) : encode i &&& i.row.mask = i.row.bits := by
  cases i with
  | syscall code => exact Laws.EncodesItsRow.syscall code
  | j target | jal target => exact packJ_and_opcodeMask _ target
  | bltz rs imm | bgez rs imm => exact packI_and_regimmMask _ rs _ imm
  | beq rs rt imm | bne rs rt imm | blez rs rt imm | bgtz rs rt imm | addi rs rt imm | addiu rs rt imm
  | slti rs rt imm | andi rs rt imm | ori rs rt imm | xori rs rt imm | lui rs rt imm
  | lb rs rt imm | lh rs rt imm | lw rs rt imm | sb rs rt imm | sh rs rt imm | sw rs rt imm =>
    exact packI_and_opcodeMask _ rs rt imm
  | _ => exact packR_and_specialMask _ _ _ _ _ _

/-- A word that matches an opcode-0 row has the opcode and funct of the row. -/
theorem fields_of_and_specialMask {w bits : Word} (h : w &&& 0xFC00003F = bits) :
    (fieldsOf w).opcode = (fieldsOf bits).opcode ∧ (fieldsOf w).funct = (fieldsOf bits).funct := by
  obtain ⟨ho, -, -, -, -, hf⟩ := fieldsOf_packR (fieldsOf w).opcode 0 0 0 0 (fieldsOf w).funct
  rw [← h, and_specialMask, ho, hf]
  exact ⟨rfl, rfl⟩

/-- A word that matches an opcode-1 row has the opcode and rt of the row. -/
theorem fields_of_and_regimmMask {w bits : Word} (h : w &&& 0xFC1F0000 = bits) :
    (fieldsOf w).opcode = (fieldsOf bits).opcode ∧ (fieldsOf w).rt = (fieldsOf bits).rt := by
  obtain ⟨ho, -, hrt, -⟩ := fieldsOf_packI (fieldsOf w).opcode 0 (fieldsOf w).rt 0
  rw [← h, and_regimmMask, ho, hrt]
  exact ⟨rfl, rfl⟩

/-- A word that matches another row has the opcode of the row. -/
theorem opcode_of_and_opcodeMask {w bits : Word} (h : w &&& 0xFC000000 = bits) :
    (fieldsOf w).opcode = (fieldsOf bits).opcode := by
  rw [← h, and_opcodeMask, (fieldsOf_packJ _ 0).1]

/-- A word that matches a row decodes to an instruction of the row: the row fixes the fields the decoder looks at. The
row is written out first, for a term that still holds the operands is not evaluated. -/
theorem map_row_decode {w : Word} {j : Instr} (h : w &&& j.row.mask = j.row.bits) :
    (decode w).map Instr.row = .ok j.row := by
  cases j with dsimp only [Instr.row] at h ⊢
  | bltz | bgez =>
    obtain ⟨ho, hrt⟩ := fields_of_and_regimmMask h
    rw [decode, decodeFields, ho, decodeRegimm, hrt]
    rfl
  | j | jal | beq | bne | blez | bgtz | addi | addiu | slti | andi | ori | xori | lui | lb | lh | lw | sb | sh | sw =>
    rw [decode, decodeFields, opcode_of_and_opcodeMask h]
    rfl
  | _ =>
    obtain ⟨ho, hf⟩ := fields_of_and_specialMask h
    rw [decode, decodeFields, ho, decodeSpecial, hf]
    rfl

/-! The statements. -/

/-- Settles O1: `decode_encode` by the format of the instruction, `encode_of_decode` by the opcode of the word. -/
theorem decodeEncodeAreInverse : Obligations.DecodeEncodeAreInverse :=
  ⟨fun i rest => ⟨decode_encode i, decodeBytes_encodeBytes i rest⟩, fun _ _ => encode_of_decode⟩

/-- Settles O2: a word that decodes is the word of its instruction, which matches the row; and a row's mask covers the
fields the decoder looks at. -/
theorem tableRowsSelect : Obligations.TableRowsSelect := by
  refine ⟨fun w i h => ?_, fun w j h => ?_⟩
  · have hmask := encode_and_mask i
    rwa [encode_of_decode h] at hmask
  · have hrow := map_row_decode h
    cases hd : decode w with
    | ok i => rw [hd] at hrow; exact ⟨i, rfl, Except.ok.inj hrow⟩
    | error q => rw [hd] at hrow; cases hrow

end Sys2Proof.Machine
end

section
/-! PROOFS. The families 60_exceptions.md and 70_reset_and_hazards.md: the moves of the host, the halted core, what EX and
MEM do within a step, and the statements. -/

namespace Sys2Proof.Machine

/-! The moves of the host (60_exceptions.md R211). -/

/-- A word stored keeps the invariant, whoever stores it. -/
theorem State.Inv.memWrite {s t : State} {a v : Word} (hs : s.Inv) (h : s.memWrite a v = .next t) : t.Inv := by
  obtain ⟨m, hm, rfl⟩ := memWrite_next.mp h
  exact { hs with canonical := write32_wf hs.canonical hm, placed := write32_placed hs.placed hm }

/-- So does a program loaded, word by word. -/
theorem State.Inv.loadFrom {ws : List Word} {a : Word} {s t : State} (hs : s.Inv) (h : loadFrom a ws s = .next t) :
    t.Inv := by
  induction ws generalizing a s with
  | nil => cases h; exact hs
  | cons w ws ih =>
    obtain ⟨u, hu, h⟩ := andThen_next.mp h
    exact ih (hs.memWrite hu) h

/-- A reset gives the reset state of the platform but for the count of free words, which the invariant does not see. -/
theorem inv_hostReset (s : State) : (hostReset s).Inv := { inv_resetOn s.platform with }

/-- The same write to both snapshots keeps them equal. -/
theorem State.Inv.writeBoth {s : State} (hs : s.Inv) (f : Snapshot → Snapshot) :
    State.Inv { s with cur := f s.cur, nxt := f s.nxt } :=
  { hs with snapshots := congrArg f hs.snapshots }

/-! A step of EX and of MEM within a step of the core (40_pipeline.md R90). -/

/-- WB and MEM leave alone what EX reads. -/
theorem beforeEx_keeps {s s₁ s₂ : State} (hwb : wbEngine (clearReports s) = .next s₁) (hmem : memEngine s₁ = .next s₂) :
    s₂.cur = s.cur ∧ s₂.idEx = s.idEx ∧ s₂.exMem = s.exMem := by
  obtain ⟨kw, -⟩ := wbEngine_keeps hwb
  obtain ⟨-, km, -⟩ := memEngine_next hmem
  exact ⟨km.cur.trans kw.cur, km.idEx.trans kw.idEx, km.exMem.trans kw.exMem⟩

/-- The EX of a step: it starts with `CUR`, `ID_EX` and `EX_MEM` as they were, and the stages after it leave `EX_MEM`, HI
and LO alone. -/
theorem step_ex {s t : State} (hrun : s.run = true) (h : step s = .next t) :
    ∃ s₂ s₃, exEngine s₂ = .next s₃ ∧ s₂.cur = s.cur ∧ s₂.idEx = s.idEx ∧ s₂.exMem = s.exMem ∧
      t.exMem = s₃.exMem ∧ t.cur.hi = s₃.nxt.hi ∧ t.cur.lo = s₃.nxt.lo := by
  obtain ⟨s₁, s₂, s₃, w, f, hwb, hmem, hex, -, -, rfl⟩ := cycle_next ((step_running hrun).symm.trans h)
  obtain ⟨hcur, hidEx, hexMem⟩ := beforeEx_keeps hwb hmem
  exact ⟨s₂, s₃, hex, hcur, hidEx, hexMem, rfl, rfl, rfl⟩

/-- The MEM of a step: it starts with `EX_MEM` and memory as they were, and the stages after it leave `MEM_WB` alone. -/
theorem step_mem {s t : State} (hrun : s.run = true) (h : step s = .next t) :
    ∃ s₁ s₂, memDo (memClass s.exMem.opcode) s₁ = .next s₂ ∧ s₁.exMem = s.exMem ∧ s₁.mem = s.mem ∧
      s₁.platform = s.platform ∧ t.memWb = s₂.memWb := by
  obtain ⟨s₁, s₂, s₃, w, f, hwb, hmem, hex, -, -, rfl⟩ := cycle_next ((step_running hrun).symm.trans h)
  obtain ⟨kw, hm⟩ := wbEngine_keeps hwb
  obtain ⟨ke, -⟩ := exEngine_keeps hex
  rw [memEngine_eq, kw.exMem] at hmem
  exact ⟨s₁.atStage .mem, s₂, hmem, kw.exMem, hm, kw.platform, ke.memWb⟩

/-! What EX computes, whatever the rest of the state holds (40_pipeline.md R96). -/

/-- The state `r` with the parts that EX computes from, taken from `s`. -/
def State.withExInputs (s r : State) : State := { r with cur := s.cur, idEx := s.idEx, exMem := s.exMem, stage := .ex }

/-- Class HILO keeps ALUOutput. -/
theorem aluOutput_of_hilo_shape {s t : State} {r : Result} (hs : ExShape .hilo s r) (h : r = .next t) :
    t.exMem.aluOutput = s.exMem.aluOutput := by
  obtain ⟨u, hu, halu, -⟩ := next_of_hilo_shape hs
  cases h.symm.trans hu
  exact halu

/-- ALUOutput after EX depends on `CUR`, `ID_EX` and `EX_MEM` alone: class COMPUTE computes it from the first two, the
other classes keep it. -/
theorem exec_ex_aluOutput (i : Instr) {s r u v : State} (hu : exec i (s.atStage .ex) = .next u)
    (hv : exec i (s.withExInputs r) = .next v) : v.exMem.aluOutput = u.exMem.aluOutput := by
  cases i with
  | div =>
    have hu' := aluOutput_of_hilo_shape (divide_shape (s.atStage .ex)) hu
    exact (aluOutput_of_hilo_shape (divide_shape (s.withExInputs r)) hv).trans hu'.symm
  | divu =>
    have hu' := aluOutput_of_hilo_shape (divideUnsigned_shape (s.atStage .ex)) hu
    exact (aluOutput_of_hilo_shape (divideUnsigned_shape (s.withExInputs r)) hv).trans hu'.symm
  | syscall => cases hu.symm.trans (exHalt_eq _); cases hv.symm.trans (exHalt_eq _); rfl
  | _ => cases hu; cases hv; rfl

/-- What an instruction computes in EX from the state before the step is what the step latches. -/
theorem step_aluOutput {s t u : State} {i : Instr} (hrun : s.run = true) (h : step s = .next t)
    (hi : s.idEx.instr = .ok i) (hu : exec i (s.atStage .ex) = .next u) : t.exMem.aluOutput = u.exMem.aluOutput := by
  obtain ⟨s₂, s₃, hex, hcur, hidEx, hexMem, ht, -, -⟩ := step_ex hrun h
  rw [exEngine_of_instr (hidEx ▸ hi)] at hex
  have hsame : s₂.atStage .ex = s.withExInputs s₂ := by
    rw [State.withExInputs, ← hcur, ← hidEx, ← hexMem]
    rfl
  rw [ht]
  exact exec_ex_aluOutput i hu (hsame ▸ hex)

/-- What an instruction of class HILO always writes to HI and LO is in `CUR` after the step. -/
theorem step_setsHiLo {s t : State} {i : Instr} {post : State → Word → Word → Prop}
    (hset : SetsHiLo i (fun _ => True) post) (hrun : s.run = true) (h : step s = .next t) (hi : s.idEx.instr = .ok i) :
    ∃ q, q.idEx = s.idEx ∧ post q t.cur.hi t.cur.lo := by
  obtain ⟨s₂, s₃, hex, -, hidEx, -, -, hhi, hlo⟩ := step_ex hrun h
  rw [exEngine_of_instr (hidEx ▸ hi)] at hex
  obtain ⟨u, hu, hpost, -⟩ := hset (s₂.atStage .ex) rfl trivial
  cases hex.symm.trans hu
  rw [hhi, hlo]
  exact ⟨s₂.atStage .ex, hidEx, hpost⟩

/-! The classes of WB and MEM that belong together (40_pipeline.md R101, R104). -/

/-- What WB writes from ALUOutput, MEM has passed on. -/
theorem memClass_of_writeAlu {op fn : Six} (h : wbClass op fn = .writeAlu) : memClass op = .pass := by
  unfold wbClass at h
  split_ifs at h with ho _ hop
  · rw [ho]; rfl
  · exact if_pos (List.Sublist.mem hop (by decide))

/-- What MEM loads, WB writes from LMD. -/
theorem wbClass_of_load {op : Six} (fn : Six) (h : memClass op = .loadb ∨ memClass op = .loadh ∨ memClass op = .loadw) :
    wbClass op fn = .writeLmd := by
  have hop : op = 0x20 ∨ op = 0x21 ∨ op = 0x23 := by
    unfold memClass at h
    split_ifs at h <;> simp_all
  rcases hop with rfl | rfl | rfl <;> rfl

/-- The register WB writes in class WRITE_ALU. -/
theorem StepEffect.reg_of_writeAlu {s t : State} (e : StepEffect s t)
    (h : wbClass s.memWb.opcode s.memWb.funct = .writeAlu) : t.cur.reg s.memWb.dest = s.memWb.aluOutput :=
  (e.regs _).trans (if_pos ⟨rfl, h⟩)

/-- The register WB writes after a load. -/
theorem StepEffect.reg_of_load {s t : State} (e : StepEffect s t) (h : memClass s.memWb.opcode = .loadb ∨
      memClass s.memWb.opcode = .loadh ∨ memClass s.memWb.opcode = .loadw) :
    t.cur.reg s.memWb.dest = s.memWb.lmd := by
  have hc := wbClass_of_load s.memWb.funct h
  rw [e.regs, if_neg (by simp [hc]), if_pos ⟨rfl, hc⟩]

/-- A register that WB does not write is committed as `NXT` held it. -/
theorem StepEffect.reg_of_not_written {s t : State} {r : Five} (e : StepEffect s t)
    (h : r ≠ s.memWb.dest ∨ wbClass s.memWb.opcode s.memWb.funct = .none ∨
      wbClass s.memWb.opcode s.memWb.funct = .unrec) : t.cur.reg r = s.nxt.reg r := by
  rw [e.regs]
  rcases h with h | h | h <;> simp [h]

/-- Class LOADB and class LOADH over a step: LMD gets what is made of the word that memory held before it. -/
theorem step_loads {load : Word → Word} {s t : State} (hrun : s.run = true) (h : step s = .next t)
    (hc : ∀ q, memDo (memClass s.exMem.opcode) q = q.withRead q.exMem.aluOutput fun w => .next (memLmd (load w) q)) :
    ∃ w, s.memRead s.exMem.aluOutput = .ok w ∧ t.memWb.lmd = load w := by
  obtain ⟨s₁, s₂, hmem, hexMem, hm, hplatform, ht⟩ := step_mem hrun h
  rw [hc] at hmem
  obtain ⟨w, hw, hmem⟩ := withRead_next.mp hmem
  cases hmem
  rw [hexMem, hm, hplatform] at hw
  exact ⟨w, hw, congrArg MemWb.lmd ht⟩

/-- Class PASS over a step. -/
theorem step_passes {s t : State} (hrun : s.run = true) (h : step s = .next t) (hc : memClass s.exMem.opcode = .pass) :
    t.memWb.aluOutput = s.exMem.aluOutput := by
  obtain ⟨s₁, s₂, hmem, hexMem, -, -, ht⟩ := step_mem hrun h
  rw [hc] at hmem
  cases hmem
  rw [ht, ← hexMem]
  rfl

/-! The placement of a word (assumption log 4). -/

/-- A word of 32 bits is placed as it is. -/
theorem withFetchWord_toNat (s : State) (w : Word) : s.withFetchWord 32 w.toNat = s.withWordInExecute w := by
  rw [State.withFetchWord, Nat.mod_eq_of_lt w.isLt, BitVec.ofNat_toNat, BitVec.setWidth_eq]

/-- A step of a running core whose `ID_EX` holds an instruction has the EX of that instruction: WB and MEM keep
`ID_EX`. -/
theorem step_of_idEx_instr {s : State} {i : Instr} (hrun : s.run = true) (hi : s.idEx.instr = .ok i) :
    step s =
      andThen (wbEngine (clearReports s)) fun s₁ =>
      andThen (memEngine s₁) fun s₂ =>
      andThen (exec i (s₂.atStage .ex)) fun s₃ =>
      andThen (idStage s₃) fun s₄ =>
      andThen (ifStage s₄) fun s₅ => .next (commit s₅) := by
  rw [step_running hrun, cycle]
  refine andThen_congr fun s₁ hwb => andThen_congr fun s₂ hmem => ?_
  obtain ⟨-, hidEx, -⟩ := beforeEx_keeps hwb hmem
  rw [exEngine_of_instr (hidEx ▸ hi)]

/-! The statements. -/

/-- Settles O60: the moves write both snapshots alike or store words; their frames hold by definition. -/
theorem hostMovesKeepTheInvariant : Obligations.HostMovesKeepTheInvariant := by
  refine ⟨fun s hs => ⟨inv_hostReset s, fun i v => hs.writeBoth (·.setReg i v),
      fun v => hs.writeBoth ({ · with hi := v }), fun v => hs.writeBoth ({ · with lo := v }),
      fun ws t h => hs.loadFrom h⟩, fun s i v => ?_, fun s v => ?_, fun s v => ?_⟩
  · exact ⟨fun r => ⟨reg_setReg _ _ _ _, reg_setReg _ _ _ _⟩, ⟨rfl, rfl⟩, ⟨rfl, rfl⟩, by constructor <;> (intros; rfl)⟩
  · exact ⟨rfl, rfl, fun _ => ⟨rfl, rfl⟩, ⟨rfl, rfl⟩, by constructor <;> (intros; rfl)⟩
  · exact ⟨rfl, rfl, fun _ => ⟨rfl, rfl⟩, ⟨rfl, rfl⟩, by constructor <;> (intros; rfl)⟩

/-- Settles O23: neither a step nor a run takes a cycle of a halted core. -/
theorem haltedCoreKeepsItsState : Obligations.HaltedCoreKeepsItsState :=
  fun _ h => ⟨step_halted h, runFor_halted h, rfl⟩

/-- Settles O47: the cycle is a whole one by `step_effect`, and the addresses latched are those that trail the PC. -/
theorem haltCutsThePipeline : Obligations.HaltCutsThePipeline := by
  intro s t hrun htrail hcount h hhalt
  obtain ⟨-, hif, hid, -, -⟩ := htrail
  have e := step_effect hrun h
  obtain ⟨w, hw⟩ := e.decoded
  have hidPc : t.idEx.pc = s.ifId.pc := by rw [hw]; rfl
  refine ⟨e.cycleCount, e.committed, ?_, e.exPassed.ir, e.exPassed.pc, e.memPassed.ir, ?_, ?_, step_halted hhalt⟩
  · rw [e.pc, hid hcount]; bv_omega
  · rw [hidPc, hif (by omega), hid hcount]; bv_omega
  · rw [e.fetchedAt, hid hcount]; bv_omega

/-- Settles O52: the first EX writes HI (LO) of `NXT`, which the commit copies to `CUR`, where the second EX reads it. -/
theorem hiLoHaveNoHazard : Obligations.HiLoHaveNoHazard := by
  intro s t u rs rt rd sa rs' rt' rd' sa' hrun hst hrun' htu
  obtain ⟨⟨-, hmthi, -⟩, ⟨-, hmtlo, -⟩⟩ := moveToHiLoWritesOne rs rt rd sa
  refine ⟨fun hto hfrom => ?_, fun hto hfrom => ?_⟩
  · obtain ⟨q, hq, hwritten, -⟩ := step_setsHiLo hmthi hrun hst hto
    have hread : u.exMem.aluOutput = t.cur.hi := step_aluOutput hrun' htu hfrom rfl
    rw [hread, hwritten, hq]
  · obtain ⟨q, hq, hwritten, -⟩ := step_setsHiLo hmtlo hrun hst hto
    have hread : u.exMem.aluOutput = t.cur.lo := step_aluOutput hrun' htu hfrom rfl
    rw [hread, hwritten, hq]

/-- Settles O55: EX computes the value in the first step (`step_aluOutput`), MEM passes it or loads from it in the second,
WB writes by the class of the opcode and funct that the latches have carried along. -/
theorem resultReachesItsRegisterInWriteback : Obligations.ResultReachesItsRegisterInWriteback := by
  intro s₀ s₁ s₂ s₃ u i hrun₀ hrun₁ hrun₂ h₀ h₁ h₂ hi hu
  have e₀ := step_effect hrun₀ h₀
  have e₁ := step_effect hrun₁ h₁
  have e₂ := step_effect hrun₂ h₂
  have halu : s₁.exMem.aluOutput = u.exMem.aluOutput := step_aluOutput hrun₀ h₀ hi hu
  have hop : s₂.memWb.opcode = s₀.idEx.opcode := e₁.memPassed.opcode.trans e₀.exPassed.opcode
  have hfunct : s₂.memWb.funct = s₀.idEx.funct := e₁.memPassed.funct.trans e₀.exPassed.funct
  have hdest : s₂.memWb.dest = s₀.idEx.destination := e₁.memPassed.dest.trans e₀.exPassed.dest
  have hpassed : s₂.memWb.opcode = s₁.exMem.opcode := e₁.memPassed.opcode
  rw [← hdest, ← hop, ← hfunct, ← halu]
  refine ⟨fun hc => ?alu, fun hc => ?lb, fun hc => ?lh, fun hc => ?lw, fun _ => e₂.reg_of_not_written,
    fun r hr => ?first, fun r hr => ?second⟩
  case alu =>
    rw [e₂.reg_of_writeAlu hc]
    exact step_passes hrun₁ h₁ (hpassed ▸ memClass_of_writeAlu hc)
  case lb =>
    obtain ⟨w, hw, hlmd⟩ := step_loads hrun₁ h₁ fun q => by rw [← hpassed, hc]; rfl
    refine ⟨w, hw, ?_⟩
    rw [e₂.reg_of_load (.inl hc), hlmd, ← signExtend_eq_extendedByte]
    rfl
  case lh =>
    obtain ⟨w, hw, hlmd⟩ := step_loads hrun₁ h₁ fun q => by rw [← hpassed, hc]; rfl
    refine ⟨w, hw, ?_⟩
    rw [e₂.reg_of_load (.inr (.inl hc)), hlmd, ← signExtend_eq_extendedHalf]
    rfl
  case lw =>
    rw [e₂.reg_of_load (.inr (.inr hc))]
    rw [hpassed] at hc
    exact step_keeps_lmd h₁ (by simp [hc]) (by simp [hc])
  case first => exact e₀.reg_of_not_written (.inl hr)
  case second => exact e₁.reg_of_not_written (.inl (e₀.memPassed.dest ▸ hr))

/-- Settles O11: the latch of a word decodes as the word does. -/
theorem fetchWordRunsNext : Obligations.FetchWordRunsNext := by
  intro s t w i hw ht
  rw [withFetchWord_toNat] at ht
  subst ht
  have hi : (s.withWordInExecute w).idEx.instr = .ok i := hw
  exact ⟨rfl, hi, rfl, rfl, rfl, exEngine_of_instr hi, step_of_idEx_instr rfl hi⟩

end Sys2Proof.Machine
end
